-- ==== Sys2Proof/Word.lean ====
section
/-! DEFINITION. The word types of the block: every value is unsigned (R9) and bit 0 is least significant (R8). -/

namespace Sys2Proof

/-- A byte (R7, R8). -/
abbrev Byte := BitVec 8

/-- An argument or speed input, `ARG_W` = 32 bits, unsigned (R7, R83). -/
abbrev Arg := BitVec 32

/-- The request word `REQ[127:0]` (R70). -/
abbrev ReqWord := BitVec 128

/-- A word of the catalog ROM (R50, R86). -/
abbrev CatWord := BitVec 64

end Sys2Proof
end

