-- ==== Sys2Proof/Syntax.lean ====
section
/-! DEFINITION. The requests of the block as syntax: one constructor of `Instr` per row of spec/opcode_table.json (R70, R74-R79). -/

namespace Sys2Proof

/-- The four codes of a 2-bit tri-state field (R80). -/
inductive Tri where
  | none      -- 0b00
  | first     -- 0b01, the field's first value (R81)
  | second    -- 0b10, the field's second value (R81)
  | reserved  -- 0b11
  deriving DecidableEq, Repr

/-- The intent field `REQ[29:16]`: seven tri-states, in index order 1..7 (R81). -/
structure Intent where
  pan   : Tri
  tilt  : Tri
  iris  : Tri
  focus : Tri
  zoom  : Tri
  scan  : Tri
  cam   : Tri
  deriving DecidableEq, Repr

/-- Seven bytes with index 0..6: the address spaces RX and TX (R50). -/
structure Bytes7 where
  b0 : Byte
  b1 : Byte
  b2 : Byte
  b3 : Byte
  b4 : Byte
  b5 : Byte
  b6 : Byte
  deriving DecidableEq, Repr

/-- The seven operations (R14, R70). A value field is kept also where a present bit or the byte count makes it
ignored (R73, R76, R78): what ignores it is the meaning. -/
inductive Instr where
  /-- ENCODE, format R (R74). -/
  | encode (addr cmd1 cmd2 data1 data2 : Byte)
  /-- ISSUE_EXT, format X (R75): `a1p`, `a2p` are the present bits of R76. -/
  | issueExt (addr cmdId : Byte) (a1p a2p : Bool) (arg1 arg2 : Arg)
  /-- BUILD_STD, format S (R77): `psp`, `tsp` are the present bits of the two speeds. -/
  | buildStd (addr : Byte) (intent : Intent) (psp tsp : Bool) (panSpeed tiltSpeed : Arg)
  /-- DECODE_CMD, format D (R78): `n` bytes were received, `rx` holds them. -/
  | decodeCmd (n : Nat) (rx : Bytes7)
  /-- DECODE_STATUS, format D (R78). -/
  | decodeStatus (n : Nat) (rx : Bytes7)
  /-- DECODE_QUERY, format D (R78). -/
  | decodeQuery (n : Nat) (rx : Bytes7)
  /-- READ_SESSION, format N (R79). -/
  | readSession
  deriving DecidableEq, Repr

end Sys2Proof
end

