-- ==== Sys2Proof/WellFormed.lean ====
section
/-! DEFINITION. Which terms of `Instr` a request word can carry. -/

namespace Sys2Proof

/-- The one bound the fields' types do not give: the byte count of a format D request is 0..7 (R78). -/
def Instr.wf : Instr → Bool
  | .encode _ _ _ _ _ => true
  | .issueExt _ _ _ _ _ _ => true
  | .buildStd _ _ _ _ _ _ => true
  | .decodeCmd n _ => decide (n ≤ 7)
  | .decodeStatus n _ => decide (n ≤ 7)
  | .decodeQuery n _ => decide (n ≤ 7)
  | .readSession => true

end Sys2Proof
end

