-- ==== Sys2Proof/Decode.lean ====
section
/-! DEFINITION. Decoding and encoding of request words: the operation field, the reserved bits of each format and the
fields, from the tables of R70 and R74-R81. Decoding is total; a word that means no operation is rejected by name (R71). -/

namespace Sys2Proof

/-- Why a request word means no operation, in the order of R71. -/
inductive DecodeReject where
  /-- `op` is 0x0 or 0x8..0xF (R72). -/
  | reservedOp
  /-- A reserved bit of the word's format is 1 (R73). -/
  | reservedBit
  deriving DecidableEq, Repr

/-- What a request word reads as. -/
inductive Decoded where
  | instr (i : Instr)
  | reject (r : DecodeReject)
  deriving DecidableEq, Repr

/-- The operation field `REQ[3:0]` (R70). -/
def opField (w : ReqWord) : BitVec 4 := w.extractLsb' 0 4

/-- The code of a tri-state field (R80). -/
def triOfBits (b : BitVec 2) : Tri :=
  if b = 0b00#2 then .none else if b = 0b01#2 then .first else if b = 0b10#2 then .second else .reserved

/-- The 2 bits of a tri-state field (R80). -/
def triBits : Tri → BitVec 2
  | .none => 0b00#2
  | .first => 0b01#2
  | .second => 0b10#2
  | .reserved => 0b11#2

/-- The seven tri-states of `REQ[29:16]` (R81). -/
def intentOf (w : ReqWord) : Intent where
  pan   := triOfBits (w.extractLsb' 16 2)
  tilt  := triOfBits (w.extractLsb' 18 2)
  iris  := triOfBits (w.extractLsb' 20 2)
  focus := triOfBits (w.extractLsb' 22 2)
  zoom  := triOfBits (w.extractLsb' 24 2)
  scan  := triOfBits (w.extractLsb' 26 2)
  cam   := triOfBits (w.extractLsb' 28 2)

/-- The 14 bits of the intent field, cam in the most significant place (R81). -/
def intentBits (m : Intent) : BitVec 14 :=
  triBits m.cam ++ triBits m.scan ++ triBits m.zoom ++ triBits m.focus ++ triBits m.iris ++ triBits m.tilt
    ++ triBits m.pan

/-- `RX[k] = REQ[15+8k : 8+8k]` (R78). -/
def rxOf (w : ReqWord) : Bytes7 where
  b0 := w.extractLsb' 8 8
  b1 := w.extractLsb' 16 8
  b2 := w.extractLsb' 24 8
  b3 := w.extractLsb' 32 8
  b4 := w.extractLsb' 40 8
  b5 := w.extractLsb' 48 8
  b6 := w.extractLsb' 56 8

/-- `n = REQ[6:4]` (R78). -/
def countOf (w : ReqWord) : Nat := (w.extractLsb' 4 3).toNat

/-- Reserved bits 7:4 and 127:48 of format R (R74). -/
def reservedR (w : ReqWord) : Bool := w.extractLsb' 4 4 ≠ 0#4 || w.extractLsb' 48 80 ≠ 0#80

/-- Reserved bits 7:4, 31:26 and 127:96 of format X (R75). -/
def reservedX (w : ReqWord) : Bool :=
  w.extractLsb' 4 4 ≠ 0#4 || w.extractLsb' 26 6 ≠ 0#6 || w.extractLsb' 96 32 ≠ 0#32

/-- Reserved bits 7:4 and 127:96 of format S (R77). -/
def reservedS (w : ReqWord) : Bool := w.extractLsb' 4 4 ≠ 0#4 || w.extractLsb' 96 32 ≠ 0#32

/-- Reserved bits 7 and 127:64 of format D (R78). -/
def reservedD (w : ReqWord) : Bool := w.extractLsb' 7 1 ≠ 0#1 || w.extractLsb' 64 64 ≠ 0#64

/-- Reserved bits 127:4 of format N (R79). -/
def reservedN (w : ReqWord) : Bool := w.extractLsb' 4 124 ≠ 0#124

/-- Step 2 of R71: a word with a reserved bit set is rejected, any other is the instruction. -/
def unlessReserved (bad : Bool) (i : Instr) : Decoded :=
  if bad then .reject .reservedBit else .instr i

/-- Request decoding, in the order of R71; the format follows from `op` alone (R70). -/
def decode (w : ReqWord) : Decoded :=
  match (opField w).toNat with
  | 1 => unlessReserved (reservedR w)
      (.encode (w.extractLsb' 8 8) (w.extractLsb' 16 8) (w.extractLsb' 24 8) (w.extractLsb' 32 8) (w.extractLsb' 40 8))
  | 2 => unlessReserved (reservedX w)
      (.issueExt (w.extractLsb' 8 8) (w.extractLsb' 16 8) (w.getLsbD 24) (w.getLsbD 25) (w.extractLsb' 32 32)
        (w.extractLsb' 64 32))
  | 3 => unlessReserved (reservedS w)
      (.buildStd (w.extractLsb' 8 8) (intentOf w) (w.getLsbD 30) (w.getLsbD 31) (w.extractLsb' 32 32)
        (w.extractLsb' 64 32))
  | 4 => unlessReserved (reservedD w) (.decodeCmd (countOf w) (rxOf w))
  | 5 => unlessReserved (reservedD w) (.decodeStatus (countOf w) (rxOf w))
  | 6 => unlessReserved (reservedD w) (.decodeQuery (countOf w) (rxOf w))
  | 7 => unlessReserved (reservedN w) .readSession
  | _ => .reject .reservedOp

/-- A format D word (R78). -/
def encodeD (op : BitVec 4) (n : Nat) (rx : Bytes7) : ReqWord :=
  0#64 ++ rx.b6 ++ rx.b5 ++ rx.b4 ++ rx.b3 ++ rx.b2 ++ rx.b1 ++ rx.b0 ++ 0#1 ++ BitVec.ofNat 3 n ++ op

/-- The request word of an instruction, its fields from bit 127 down, reserved bits 0 (R74-R79). -/
def encode : Instr → ReqWord
  | .encode addr cmd1 cmd2 data1 data2 => 0#80 ++ data2 ++ data1 ++ cmd2 ++ cmd1 ++ addr ++ 0#4 ++ 0x1#4
  | .issueExt addr cmdId a1p a2p arg1 arg2 =>
      0#32 ++ arg2 ++ arg1 ++ 0#6 ++ BitVec.ofBool a2p ++ BitVec.ofBool a1p ++ cmdId ++ addr ++ 0#4 ++ 0x2#4
  | .buildStd addr intent psp tsp panSpeed tiltSpeed =>
      0#32 ++ tiltSpeed ++ panSpeed ++ BitVec.ofBool tsp ++ BitVec.ofBool psp ++ intentBits intent ++ addr ++ 0#4
        ++ 0x3#4
  | .decodeCmd n rx => encodeD 0x4#4 n rx
  | .decodeStatus n rx => encodeD 0x5#4 n rx
  | .decodeQuery n rx => encodeD 0x6#4 n rx
  | .readSession => 0#124 ++ 0x7#4

/-- The instruction a word reads as, if it is one. -/
def Decoded.toOption : Decoded → Option Instr
  | .instr i => some i
  | .reject _ => none

/-- The request word whose low `nbits` bits are `w` and whose other bits are 0. -/
def tableWord (nbits w : Nat) : ReqWord := BitVec.ofNat 128 (w % 2 ^ nbits)

/-- What the decoder reads from a word numbered as spec/opcode_table.json numbers it; the table's bit numbers are
those of the request word (R70), which is one 128-bit word whatever `nbits` is. -/
def decodeTableWord (nbits w : Nat) : Option Instr := (decode (tableWord nbits w)).toOption

end Sys2Proof
end

