-- ==== Sys2Proof/Config.lean ====
section
/-! DEFINITION. What is fixed when the block is built (R7, R25): the configuration as plain data, and the one value the
spec leaves free, the latency. -/

namespace Sys2Proof

/-- The only addressable memory, the catalog ROM `CAT` (R50): (id, word) pairs in rising order of id; an id that is
not listed holds the all-zero word (R160). -/
abbrev Memory := List (Nat × CatWord)

/-- The names of catalog entries: those of the reference catalog (R160). -/
inductive CatalogOp where
  | setPreset
  | clearPreset
  | callPreset
  | gotoZeroPan
  | setAux
  | clearAux
  | remoteReset
  | setZoneStart
  | setZoneEnd
  | writeChar
  | clearScreen
  | alarmAck
  | zoneScanOn
  | zoneScanOff
  | patternStart
  | patternStop
  | runPattern
  | setZoomSpeed
  | setFocusSpeed
  | resetCamera
  | autoFocus
  | autoIris
  | agc
  | backlight
  | awb
  | shutterBank0
  | shutterBank1
  | whiteBalanceRBBank0
  | whiteBalanceRBBank1
  | whiteBalanceMGBank0
  | whiteBalanceMGBank1
  | gainBank0
  | gainBank1
  | autoIrisLevelBank0
  | autoIrisLevelBank1
  | autoIrisPeakBank0
  | autoIrisPeakBank1
  deriving DecidableEq, Repr

/-- The configuration parameters of R7; nothing changes them while the block runs (R25, R282). -/
structure Config where
  /-- `CATALOG`, the contents of the ROM. -/
  cat : Memory
  /-- Which id each named entry has (R88 (e), R161, R162 speak of entries by name). -/
  names : List (CatalogOp × Byte)
  /-- `QUERY_SUPPORTED` (R25). -/
  querySupported : Bool
  /-- `STICKY_RESET_PAN`, `none` for `Unwritten` (R7, R31). -/
  stickyResetPan : Option Byte
  /-- `STICKY_RESET_TILT` (R7, R31). -/
  stickyResetTilt : Option Byte
  deriving DecidableEq, Repr

/-- FREE VALUE (log 3): by how many cycles the latency of the `k`-th accepted request exceeds 1. R288 leaves the
latency open for each request and lets no rule depend on it. -/
opaque Config.extraLatency : Nat → Nat

/-- `LATENCY` of the `k`-th accepted request, finite and at least 1 (R7, R29, R288). -/
def Config.latency (k : Nat) : Nat := Config.extraLatency k + 1

end Sys2Proof
end

