-- ==== Sys2Proof/Machine/Catalog.lean ====
section
/-! DEFINITION. The catalog ROM: reading it (R51), the fields of its words (R86, R87), what makes a configuration
well-formed (R88, R31) and complete (R162), and the reference catalog (R160). -/

namespace Sys2Proof

/-- `MemRead(CAT, id, 8)`: every id has a word (R51). -/
def Memory.read : Memory → Nat → CatWord
  | [], _ => 0#64
  | (k, w) :: m, id => if k = id then w else Memory.read m id

/-- Build-time programming of entry `id`; no operation of the block writes the ROM (R51). An all-zero word is not
listed, so that equal contents are equal lists. -/
def Memory.put : Memory → Nat → CatWord → Memory
  | [], id, w => if w = 0#64 then [] else [(id, w)]
  | (k, v) :: m, id, w =>
    if id < k then (if w = 0#64 then (k, v) :: m else (id, w) :: (k, v) :: m)
    else if id = k then (if w = 0#64 then m else (id, w) :: m)
    else (k, v) :: Memory.put m id w

/-- The canonical form from id `lo` on: ids rising and below 256, no all-zero word. -/
def Memory.wfFrom (lo : Nat) : Memory → Bool
  | [] => true
  | (k, w) :: m => decide (lo ≤ k) && decide (k < 256) && decide (w ≠ 0#64) && Memory.wfFrom (k + 1) m

/-- The canonical form of the ROM's contents. -/
def Memory.wf (m : Memory) : Bool := Memory.wfFrom 0 m

/-- What an argument slot demands (R87). -/
inductive ArgSpec where
  | fixed (b : Byte)
  | range (lo hi : Byte)
  deriving DecidableEq, Repr

/-- A catalog entry, the source's ExtendedCommandSpec (R85), with its valid bit. -/
structure CatEntry where
  valid : Bool
  word3 : Byte
  word4 : Byte
  slot1 : ArgSpec
  slot2 : ArgSpec
  deriving DecidableEq, Repr

/-- A slot from its kind bit and its two bytes (R87). -/
def ArgSpec.ofFields (k : Bool) (lo hi : Byte) : ArgSpec := if k then .range lo hi else .fixed lo

/-- The fields of a catalog word (R86). -/
def CatEntry.ofWord (e : CatWord) : CatEntry where
  valid := e.getLsbD 0
  word3 := e.extractLsb' 8 8
  word4 := e.extractLsb' 16 8
  slot1 := ArgSpec.ofFields (e.getLsbD 1) (e.extractLsb' 24 8) (e.extractLsb' 32 8)
  slot2 := ArgSpec.ofFields (e.getLsbD 2) (e.extractLsb' 40 8) (e.extractLsb' 48 8)

/-- One slot of R88 (c) and (d): a fixed byte has hi = 0, a range has lo ≤ hi. -/
def slotWf (k : Bool) (lo hi : Byte) : Bool := if k then decide (lo.toNat ≤ hi.toNat) else decide (hi = 0#8)

/-- Checks (a) to (d) of R88 on one word. -/
def catWordWf (e : CatWord) : Bool :=
  (e.getLsbD 0 || decide (e = 0#64))
    && decide (e.extractLsb' 3 5 = 0#5) && decide (e.extractLsb' 56 8 = 0#8)
    && slotWf (e.getLsbD 1) (e.extractLsb' 24 8) (e.extractLsb' 32 8)
    && slotWf (e.getLsbD 2) (e.extractLsb' 40 8) (e.extractLsb' 48 8)

/-- The source's GotoZeroPan entry (R161). -/
def gotoZeroPanWord : CatWord := 0x0000160000070001#64

/-- Check (e) of R88 on one named entry. -/
def namedWf (m : Memory) (op : CatalogOp) (id : Byte) : Bool :=
  decide (op ≠ .gotoZeroPan) || decide (Memory.read m id.toNat = gotoZeroPanWord)

/-- A legal speed byte: 0x00..0x3F or turbo 0xFF (R24, R188). -/
def legalSpeed (b : Byte) : Bool := decide (b = 0xFF#8) || decide (b.toNat ≤ 0x3F)

/-- `Unwritten` or a legal speed (R24, R31). -/
def stickyLegal : Option Byte → Bool
  | none => true
  | some b => legalSpeed b

/-- What a model must refuse to go without: R88 for the catalog, R31 for the reset speeds. -/
def Config.wf (c : Config) : Bool :=
  Memory.wf c.cat && c.cat.all (fun p => catWordWf p.2) && c.names.all (fun p => namedWf c.cat p.1 p.2)
    && stickyLegal c.stickyResetPan && stickyLegal c.stickyResetTilt

/-- The id of a named entry. DESIGN CHOICE (log 24): of a name the configuration lists at several ids, the first listed
pair counts as the operation, for boot and for the assembler. -/
def Config.idOf (c : Config) (op : CatalogOp) : Option Byte := c.names.lookup op

/-- The arguments R162 states for an operation; it does not say which slot carries a single one. -/
inductive StatedArgs where
  | unstated
  | noArgs
  | oneRange (lo hi : Byte)
  | twoRanges (lo1 hi1 lo2 hi2 : Byte)
  | entry (e : CatWord)
  deriving DecidableEq, Repr

/-- The argument column of R162, with the ranges of R163 and R164. DESIGN CHOICE (log 21): its "none" is read as an
operation without an argument, although the source gives no argument specs for these operations (91 N17). -/
def statedArgs : CatalogOp → StatedArgs
  | .setPreset => .unstated
  | .clearPreset => .unstated
  | .callPreset => .unstated
  | .gotoZeroPan => .entry gotoZeroPanWord
  | .setAux => .oneRange 1 8
  | .clearAux => .oneRange 1 8
  | .remoteReset => .noArgs
  | .setZoneStart => .oneRange 1 8
  | .setZoneEnd => .oneRange 1 8
  | .writeChar => .twoRanges 0 28 0 127
  | .clearScreen => .noArgs
  | .alarmAck => .oneRange 1 8
  | .zoneScanOn => .noArgs
  | .zoneScanOff => .noArgs
  | .patternStart => .noArgs
  | .patternStop => .noArgs
  | .runPattern => .noArgs
  | .setZoomSpeed => .oneRange 0 3
  | .setFocusSpeed => .oneRange 0 3
  | .resetCamera => .noArgs
  | .autoFocus => .oneRange 0 2
  | .autoIris => .oneRange 0 2
  | .agc => .oneRange 0 2
  | .backlight => .oneRange 0 2
  | .awb => .oneRange 0 2
  | .shutterBank0 => .twoRanges 0 255 0 255
  | .shutterBank1 => .twoRanges 0 255 0 255
  | .whiteBalanceRBBank0 => .twoRanges 0 255 0 255
  | .whiteBalanceRBBank1 => .twoRanges 0 255 0 255
  | .whiteBalanceMGBank0 => .twoRanges 0 255 0 255
  | .whiteBalanceMGBank1 => .twoRanges 0 255 0 255
  | .gainBank0 => .twoRanges 0 255 0 255
  | .gainBank1 => .twoRanges 0 255 0 255
  | .autoIrisLevelBank0 => .twoRanges 0 255 0 255
  | .autoIrisLevelBank1 => .twoRanges 0 255 0 255
  | .autoIrisPeakBank0 => .twoRanges 0 255 0 255
  | .autoIrisPeakBank1 => .twoRanges 0 255 0 255

/-- A slot that takes no argument of its own. -/
def ArgSpec.isFixed : ArgSpec → Bool
  | .fixed _ => true
  | .range _ _ => false

/-- Word `w` carries the stated arguments, a single range in either slot (log 16). DESIGN CHOICE (log 23): the other slot
of a single range may hold anything, a fixed byte or a second range, and two ranges may stand in either order; R162 does
not say which slot carries a stated value. DESIGN CHOICE (log 21): an operation
without an argument has a fixed byte, whichever, in both slots; a catalog whose pattern commands carry a number is not
ready to boot here, and the block runs with it all the same. -/
def meetsStated (w : CatWord) : StatedArgs → Bool
  | .unstated => true
  | .noArgs => (CatEntry.ofWord w).slot1.isFixed && (CatEntry.ofWord w).slot2.isFixed
  | .oneRange lo hi =>
      decide ((CatEntry.ofWord w).slot1 = .range lo hi) || decide ((CatEntry.ofWord w).slot2 = .range lo hi)
  | .twoRanges lo1 hi1 lo2 hi2 =>
      (decide ((CatEntry.ofWord w).slot1 = .range lo1 hi1) && decide ((CatEntry.ofWord w).slot2 = .range lo2 hi2))
        || (decide ((CatEntry.ofWord w).slot1 = .range lo2 hi2)
          && decide ((CatEntry.ofWord w).slot2 = .range lo1 hi1))
  | .entry e => decide (w = e)

/-- The operations of R162; for its "paired (bank 0/1) exposure / white-balance / gain parameters" one pair of
entries each, under names of R160 (log 16). -/
def requiredOps : List CatalogOp :=
  [.setPreset, .clearPreset, .callPreset, .gotoZeroPan, .setAux, .clearAux, .remoteReset, .setZoneStart,
   .setZoneEnd, .writeChar, .clearScreen, .alarmAck, .zoneScanOn, .zoneScanOff, .patternStart, .patternStop]
  ++ [.runPattern, .setZoomSpeed, .setFocusSpeed, .resetCamera, .autoFocus, .autoIris, .agc, .backlight, .awb,
   .shutterBank0, .shutterBank1, .whiteBalanceRBBank0, .whiteBalanceRBBank1, .gainBank0, .gainBank1]

/-- The catalog holds a valid entry with the stated arguments for one operation. -/
def Config.holds (c : Config) (op : CatalogOp) : Bool :=
  match c.idOf op with
  | none => false
  | some id => (Memory.read c.cat id.toNat).getLsbD 0 && meetsStated (Memory.read c.cat id.toNat) (statedArgs op)

/-- Each required operation has an id of its own: R162 asks for one entry for each, and the id is what names a command
(R141). -/
def Config.distinctIds (c : Config) : Bool := decide (requiredOps.map c.idOf).Nodup

/-- R162: a valid entry for each of the required operations. The block runs without this (an empty catalog answers
UnknownCommand); it is a condition of boot (R284). -/
def Config.holdsRequired (c : Config) : Bool := requiredOps.all c.holds && c.distinctIds

/-- Step 1 of R284. -/
def Config.bootReady (c : Config) : Bool := c.wf && c.holdsRequired

/-- The reference catalog, ids 0..19 (R160). -/
def referenceRowsLow : List (CatalogOp × Nat × CatWord) :=
  [(.setPreset, 0, 0x00FF010000030005#64),
   (.clearPreset, 1, 0x00FF010000050005#64),
   (.callPreset, 2, 0x00FF010000070005#64),
   (.gotoZeroPan, 3, 0x0000160000070001#64),
   (.setAux, 4, 0x0008010000090005#64),
   (.clearAux, 5, 0x00080100000B0005#64),
   (.remoteReset, 6, 0x00000000000F0001#64),
   (.setZoneStart, 7, 0x0008010000110005#64),
   (.setZoneEnd, 8, 0x0008010000130005#64),
   (.writeChar, 9, 0x007F001C00150007#64),
   (.clearScreen, 10, 0x0000000000170001#64),
   (.alarmAck, 11, 0x0008010000190005#64),
   (.zoneScanOn, 12, 0x00000000001B0001#64),
   (.zoneScanOff, 13, 0x00000000001D0001#64),
   (.patternStart, 14, 0x00000000001F0001#64),
   (.patternStop, 15, 0x0000000000210001#64),
   (.runPattern, 16, 0x0000000000230001#64),
   (.setZoomSpeed, 17, 0x0003000000250005#64),
   (.setFocusSpeed, 18, 0x0003000000270005#64),
   (.resetCamera, 19, 0x0000000000290001#64)]

/-- The reference catalog, ids 20..36 (R160). -/
def referenceRowsHigh : List (CatalogOp × Nat × CatWord) :=
  [(.autoFocus, 20, 0x00020000002B0005#64),
   (.autoIris, 21, 0x00020000002D0005#64),
   (.agc, 22, 0x00020000002F0005#64),
   (.backlight, 23, 0x0002000000310005#64),
   (.awb, 24, 0x0002000000330005#64),
   (.shutterBank0, 25, 0x00FF00FF00370007#64),
   (.shutterBank1, 26, 0x00FF00FF00370107#64),
   (.whiteBalanceRBBank0, 27, 0x00FF00FF003B0007#64),
   (.whiteBalanceRBBank1, 28, 0x00FF00FF003B0107#64),
   (.whiteBalanceMGBank0, 29, 0x00FF00FF003D0007#64),
   (.whiteBalanceMGBank1, 30, 0x00FF00FF003D0107#64),
   (.gainBank0, 31, 0x00FF00FF003F0007#64),
   (.gainBank1, 32, 0x00FF00FF003F0107#64),
   (.autoIrisLevelBank0, 33, 0x00FF00FF00410007#64),
   (.autoIrisLevelBank1, 34, 0x00FF00FF00410107#64),
   (.autoIrisPeakBank0, 35, 0x00FF00FF00430007#64),
   (.autoIrisPeakBank1, 36, 0x00FF00FF00430107#64)]

/-- The reference catalog (R160): ids 37..255 are invalid. -/
def referenceRows : List (CatalogOp × Nat × CatWord) := referenceRowsLow ++ referenceRowsHigh

/-- The default configuration (R7, log 5 and 6): the reference catalog, query replies supported, sticky registers
`Unwritten` after reset. -/
def Config.default : Config where
  cat := referenceRows.map (fun r => (r.2.1, r.2.2))
  names := referenceRows.map (fun r => (r.1, BitVec.ofNat 8 r.2.1))
  querySupported := true
  stickyResetPan := none
  stickyResetTilt := none

end Sys2Proof
end

