-- ==== Sys2Proof/Machine/Flags.lean ====
section
/-! DEFINITION. The block has no flags and no condition codes (R23): the outcome of an operation is the `code` and
`info` of its own response. Here are the result codes (R250) and the info values each may have (R252). -/

namespace Sys2Proof.Machine

/-- The result codes (R250). -/
inductive ResultCode where
  | ok
  | noReply
  | unknownCommand
  | missingArgument
  | argumentOutOfRange
  | argumentMismatch
  | illegalModeCombination
  | invalidSpeed
  | framingError
  | checksumError
  | unsupportedOperation
  | reservedEncoding
  deriving DecidableEq, Repr

/-- The number of a code in the response field `code` (R250). -/
def codeBits : ResultCode → BitVec 4
  | .ok => 0
  | .noReply => 1
  | .unknownCommand => 2
  | .missingArgument => 3
  | .argumentOutOfRange => 4
  | .argumentMismatch => 5
  | .illegalModeCombination => 6
  | .invalidSpeed => 7
  | .framingError => 8
  | .checksumError => 9
  | .unsupportedOperation => 10
  | .reservedEncoding => 11

/-- The info values a response with a given code number can have (R252); none for the numbers 12..15 (R250). -/
def infosOf (code : BitVec 4) : List (BitVec 4) :=
  match code.toNat with
  | 0 => [0]
  | 1 => [0]
  | 2 => [0]
  | 3 => [1, 2]
  | 4 => [1, 2]
  | 5 => [1, 2]
  | 6 => [0]
  | 7 => [1, 2, 5, 6]
  | 8 => [1, 2, 3]
  | 9 => [0]
  | 10 => [0]
  | 11 => [0, 1, 2, 3, 4, 5, 6, 7, 15]
  | _ => []

end Sys2Proof.Machine
end

