-- ==== Sys2Proof/Machine/Operands.lean ====
section
/-! DEFINITION. The operand forms: tri-state intents (R80-R82), validated arguments (R142), resolved speeds (R186-R188)
and received bytes (R78). -/

namespace Sys2Proof.Machine

/-- The source's value sets of the seven intent fields (R81). -/
inductive PanDir where
  | left
  | right
  deriving DecidableEq, Repr

inductive TiltDir where
  | up
  | down
  deriving DecidableEq, Repr

inductive IrisDir where
  | opening
  | closing
  deriving DecidableEq, Repr

inductive FocusDir where
  | near
  | far
  deriving DecidableEq, Repr

inductive ZoomDir where
  | zoomIn
  | zoomOut
  deriving DecidableEq, Repr

inductive ScanMode where
  | auto
  | manual
  deriving DecidableEq, Repr

inductive CamState where
  | on
  | off
  deriving DecidableEq, Repr

/-- The source's MotionIntent: seven optional values (R13, R81). -/
structure Motion where
  pan   : Option PanDir
  tilt  : Option TiltDir
  iris  : Option IrisDir
  focus : Option FocusDir
  zoom  : Option ZoomDir
  scan  : Option ScanMode
  cam   : Option CamState
  deriving DecidableEq, Repr

/-- Every field none. -/
def Motion.still : Motion := ⟨none, none, none, none, none, none, none⟩

/-- `Tri(f)` for the field of index `index` whose values are `a` and `b` (R80); the reserved code gives the index as
an error (R82). -/
def readTri {α : Type} (index : BitVec 4) (a b : α) : Tri → Except (BitVec 4) (Option α)
  | .none => .ok none
  | .first => .ok (some a)
  | .second => .ok (some b)
  | .reserved => .error index

/-- The fields of an intent in index order 1..7; the lowest index that holds 0b11 is the error (R81, R82). -/
def readIntent (m : Intent) : Except (BitVec 4) Motion := do
  let pan ← readTri 1 PanDir.left PanDir.right m.pan
  let tilt ← readTri 2 TiltDir.up TiltDir.down m.tilt
  let iris ← readTri 3 IrisDir.opening IrisDir.closing m.iris
  let focus ← readTri 4 FocusDir.near FocusDir.far m.focus
  let zoom ← readTri 5 ZoomDir.zoomIn ZoomDir.zoomOut m.zoom
  let scan ← readTri 6 ScanMode.auto ScanMode.manual m.scan
  let cam ← readTri 7 CamState.on CamState.off m.cam
  pure ⟨pan, tilt, iris, focus, zoom, scan, cam⟩

/-- `ValidateArg` (R142): the validated byte or the error code; comparisons are at 32 bits (R9, R143, R145). -/
def validateArg (spec : ArgSpec) (present : Bool) (v : Arg) : Except ResultCode Byte :=
  match spec with
  | .fixed b =>
    if present = false then .ok b
    else if v = b.setWidth 32 then .ok b
    else .error .argumentMismatch
  | .range lo hi =>
    if present = false then .error .missingArgument
    else if lo.setWidth 32 ≤ v ∧ v ≤ hi.setWidth 32 then .ok (v.extractLsb' 0 8)
    else .error .argumentOutOfRange

/-- `SpeedOK` (R188). -/
def speedOk (v : Arg) : Bool := decide (v = 0xFF#32) || decide (v ≤ 0x3F#32)

/-- One axis of R180: the speed as given, else the sticky value (R186); an omitted speed with no sticky value is the
error `unwritten` (R187), a speed that is not legal the error `illegal` (R188). -/
def resolveSpeed (present : Bool) (v : Arg) (sticky : Option Byte) (unwritten illegal : BitVec 4) :
    Except (BitVec 4) Byte :=
  match (if present then some v else sticky.map (·.setWidth 32)) with
  | none => .error unwritten
  | some p => if speedOk p then .ok (p.extractLsb' 0 8) else .error illegal

/-- Byte `k` of seven, index 0 first (R50, R52). -/
def byteAt (bs : Bytes7) (k : Nat) : Byte := [bs.b0, bs.b1, bs.b2, bs.b3, bs.b4, bs.b5, bs.b6].getD k 0

/-- Bytes `lo`, `lo + 1`, … of seven, `len` of them. -/
def bytesFrom (bs : Bytes7) (lo len : Nat) : List Byte := (List.range' lo len).map (byteAt bs)

end Sys2Proof.Machine
end

