-- ==== Sys2Proof/Machine/State.lean ====
section
/-! DEFINITION. The state of the block (R20, R22, R26, R27, R29), why its step can stop, and the state right after
reset (R31). -/

namespace Sys2Proof.Machine

/-- The response record (R27). -/
structure Response where
  code   : BitVec 4
  info   : BitVec 4
  txLen  : BitVec 3
  tx     : Bytes7
  dAddr  : Byte
  dCmd1  : Byte
  dCmd2  : Byte
  dData1 : Byte
  dData2 : Byte
  dAlarm : Byte
  dPart  : BitVec 16
  sPanV  : Bool
  sPan   : Byte
  sTiltV : Bool
  sTilt  : Byte
  deriving DecidableEq, Repr

/-- The record with every field 0 (R28, R31). -/
def Response.zero : Response where
  code := 0
  info := 0
  txLen := 0
  tx := ⟨0, 0, 0, 0, 0, 0, 0⟩
  dAddr := 0
  dCmd1 := 0
  dCmd2 := 0
  dData1 := 0
  dData2 := 0
  dAlarm := 0
  dPart := 0
  sPanV := false
  sPan := 0
  sTiltV := false
  sTilt := 0

/-- The input pins as sampled on one rising edge of `clk` (R26). -/
structure Pins where
  rst      : Bool
  reqValid : Bool
  reqWord  : ReqWord
  rspReady : Bool
  deriving DecidableEq, Repr

/-- All input pins low. -/
def Pins.quiet : Pins := ⟨false, false, 0, false⟩

/-- Where the port protocol stands (R26, R29): `BUSY` and `rsp_valid` follow from it. -/
inductive Phase where
  /-- `BUSY` = 0, `rsp_valid` = 0. -/
  | idle
  /-- `BUSY` = 1, `rsp_valid` = 0: the accepted request word and in how many edges `rsp_valid` rises. -/
  | inFlight (word : ReqWord) (left : Nat)
  /-- `BUSY` = 1, `rsp_valid` = 1: the response waits to be consumed. -/
  | responding
  deriving DecidableEq, Repr

/-- The state of the block, with the pins its host will drive. -/
structure State where
  /-- `CAT`, `QUERY_SUPPORTED` and the reset parameters: configuration (R20, R25). -/
  cfg : Config
  /-- `STICKY_PAN`, `none` for `Unwritten` (R24). -/
  stickyPan : Option Byte
  /-- `STICKY_TILT` (R24). -/
  stickyTilt : Option Byte
  /-- `RSP` (R27). -/
  rsp : Response
  /-- `BUSY`, `rsp_valid` and the request in flight (R29). -/
  phase : Phase
  /-- A reset has happened since power-up (R283). -/
  resetSeen : Bool
  /-- The index of the next request in the host's sequence (R22). -/
  reqIndex : Nat
  /-- The model's own count of accepted requests; it only indexes the free latency (log 3). -/
  accepted : Nat
  /-- The pins of the coming rising edges, the next one first; after the last one every pin is low (log 1). -/
  inputs : List Pins
  deriving DecidableEq, Repr

/-- Why the machine stops. -/
inductive Fault where
  /-- Raised by the step on an edge with `rst` = 0 before the first reset: there the block has no step (R283). Safe. -/
  | noStepBeforeFirstReset
  deriving DecidableEq, Repr

/-- Why a step is refused. -/
inductive Refusal where
  /-- Raised by an arm of `exec` whose instruction has no meaning yet. Safe. No arm raises it. -/
  | notModelled (mnemonic : String)
  /-- Raised by the step where the configuration breaks R88 or R31, which a model refuses. Safe. -/
  | configurationRefused
  deriving DecidableEq, Repr

/-- `BUSY` (R29). -/
def State.busy (s : State) : Bool :=
  match s.phase with
  | .idle => false
  | .inFlight _ _ => true
  | .responding => true

/-- `rsp_valid` (R26). -/
def State.rspValid (s : State) : Bool :=
  match s.phase with
  | .idle => false
  | .inFlight _ _ => false
  | .responding => true

/-- `req_ready` while the pin `rst` has the given value: `NOT BUSY` (R26), and 0 during reset (R280). -/
def State.reqReady (s : State) (rst : Bool) : Bool := !s.busy && !rst

/-- The machine right after reset, in the default configuration (R31). -/
def State.reset : State where
  cfg := Config.default
  stickyPan := none
  stickyTilt := none
  rsp := Response.zero
  phase := .idle
  resetSeen := true
  reqIndex := 0
  accepted := 0
  inputs := []

end Sys2Proof.Machine
end

