-- ==== Sys2Proof/Machine/Ops.lean ====
section
/-! DEFINITION. The shared operations: how an operation ends (R11, R251), the frame generator and validator (R111,
R112), the sticky commit (R190), and the state updates of the port protocol and of reset (R26, R29, R280). -/

namespace Sys2Proof.Machine

/-- `rsp_valid` rises with the response `r` (R29). -/
def State.respond (s : State) (r : Response) : State := { s with rsp := r, phase := .responding }

/-- `finish(code)` with the response fields written so far in `r` (R11); the others are 0 (R28). -/
def finish (c : ResultCode) (r : Response) (s : State) : Host.Outcome State Fault Refusal :=
  .next (s.respond { r with code := codeBits c, info := 0 })

/-- `raise E(info)` (R11, R251): only `code` and `info` are written, no state changes. The block has no trap entry
(R255): this is all an error does. -/
def raise (c : ResultCode) (info : BitVec 4) (s : State) : Host.Outcome State Fault Refusal :=
  .next (s.respond { Response.zero with code := codeBits c, info := info })

/-- `Sum8` (R10). -/
def sum8 (bs : List Byte) : Byte := BitVec.ofNat 8 (bs.map BitVec.toNat).sum

/-- `EmitFrame` (R111): the response fields it writes. -/
def emitFrame (a c1 c2 d1 d2 : Byte) : Response :=
  { Response.zero with txLen := 7, tx := ⟨0xFF, a, c1, c2, d1, d2, sum8 [a, c1, c2, d1, d2]⟩ }

/-- What the frame validator answers (R112). -/
inductive FrameCheck where
  | valid
  | noReply
  | error (c : ResultCode) (info : BitVec 4)
  deriving DecidableEq, Repr

/-- `CheckFrame(L)` on `n` received bytes (R112). -/
def checkFrame (len n : Nat) (rx : Bytes7) : FrameCheck :=
  if n = 0 then .noReply
  else if n < len then .error .framingError 1
  else if n > len then .error .framingError 2
  else if byteAt rx 0 ≠ 0xFF#8 then .error .framingError 3
  else if sum8 (bytesFrom rx 1 (len - 2)) ≠ byteAt rx (len - 1) then .error .checksumError 0
  else .valid

/-- The rest of a decode operation after `CheckFrame(len)`: `fields` are the response fields of a valid frame. -/
def decodeFrame (len n : Nat) (rx : Bytes7) (fields : Response) (s : State) : Host.Outcome State Fault Refusal :=
  match checkFrame len n rx with
  | .valid => finish .ok fields s
  | .noReply => finish .noReply Response.zero s
  | .error c info => raise c info s

/-- The sticky commit (R190). -/
def State.commitSpeeds (s : State) (p t : Byte) : State := { s with stickyPan := some p, stickyTilt := some t }

/-- The info of a rejected request word (R72, R73, R252). -/
def rejectInfo : DecodeReject → BitVec 4
  | .reservedOp => 0
  | .reservedBit => 15

/-- The pins sampled on the coming edge (R26); low after the schedule ends (log 1). -/
def State.pins (s : State) : Pins := s.inputs.headD Pins.quiet

/-- The edge's pins are used up. -/
def State.tick (s : State) : State := { s with inputs := s.inputs.tail }

/-- An edge with `rst` = 1 (R280, R281): the values of R31; the configuration is untouched (R282). -/
def State.applyReset (s : State) : State :=
  { s with stickyPan := s.cfg.stickyResetPan, stickyTilt := s.cfg.stickyResetTilt, rsp := Response.zero,
           phase := .idle, resetSeen := true }

/-- The edge that accepts `w` (R26, R29); the latency is free (R288, log 3). -/
def State.accept (s : State) (w : ReqWord) : State :=
  { s with phase := .inFlight w (Config.latency s.accepted), accepted := s.accepted + 1 }

/-- An edge on which `rsp_valid` does not yet rise. -/
def State.wait (s : State) (w : ReqWord) (left : Nat) : State := { s with phase := .inFlight w left }

/-- The edge that consumes the response (R26, R29); the request index goes up (R22). -/
def State.consume (s : State) : State := { s with phase := .idle, reqIndex := s.reqIndex + 1 }

end Sys2Proof.Machine
end

