-- ==== Sys2Proof/Machine/ExtendedCommands.lean ====
section
/-! DEFINITION. The extended-command mapper: ISSUE_EXT (R140). -/

namespace Sys2Proof.Machine

/-- The entry ISSUE_EXT reads (R51, R86). -/
def entryAt (s : State) (cmdId : Byte) : CatEntry := CatEntry.ofWord (Memory.read s.cfg.cat cmdId.toNat)

/-- ISSUE_EXT (R140): lookup (R141), both arguments validated and slot 1's error first (R147), frame (R146). -/
def execIssueExt (addr cmdId : Byte) (a1p a2p : Bool) (arg1 arg2 : Arg) (s : State) :
    Host.Outcome State Fault Refusal :=
  if (entryAt s cmdId).valid = false then raise .unknownCommand 0 s
  else
    match validateArg (entryAt s cmdId).slot1 a1p arg1, validateArg (entryAt s cmdId).slot2 a2p arg2 with
    | .error c, _ => raise c 1 s
    | .ok _, .error c => raise c 2 s
    | .ok r1, .ok r2 => finish .ok (emitFrame addr (entryAt s cmdId).word3 (entryAt s cmdId).word4 r1 r2) s

end Sys2Proof.Machine
end

