-- ==== Sys2Proof/Machine/FrameCodec.lean ====
section
/-! DEFINITION. The operations on the 7-byte command layout: ENCODE (R110) and DECODE_CMD (R115). -/

namespace Sys2Proof.Machine

/-- ENCODE (R110): every byte is accepted in every position. -/
def execEncode (addr cmd1 cmd2 data1 data2 : Byte) (s : State) : Host.Outcome State Fault Refusal :=
  finish .ok (emitFrame addr cmd1 cmd2 data1 data2) s

/-- DECODE_CMD (R115). -/
def execDecodeCmd (n : Nat) (rx : Bytes7) (s : State) : Host.Outcome State Fault Refusal :=
  decodeFrame 7 n rx
    { Response.zero with
      dAddr := byteAt rx 1, dCmd1 := byteAt rx 2, dCmd2 := byteAt rx 3, dData1 := byteAt rx 4, dData2 := byteAt rx 5 }
    s

end Sys2Proof.Machine
end

