-- ==== Sys2Proof/Machine/Replies.lean ====
section
/-! DEFINITION. The reply decoders: DECODE_STATUS (R220) and DECODE_QUERY (R230). -/

namespace Sys2Proof.Machine

/-- DECODE_STATUS (R220): bit `k - 1` of `d_alarm` is alarm `k` (R221). -/
def execDecodeStatus (n : Nat) (rx : Bytes7) (s : State) : Host.Outcome State Fault Refusal :=
  decodeFrame 4 n rx { Response.zero with dAddr := byteAt rx 1, dAlarm := byteAt rx 2 } s

/-- DECODE_QUERY (R230): a variant without query replies answers so before every other check (R231); the part number
is big-endian (R232). -/
def execDecodeQuery (n : Nat) (rx : Bytes7) (s : State) : Host.Outcome State Fault Refusal :=
  if s.cfg.querySupported = false then raise .unsupportedOperation 0 s
  else decodeFrame 5 n rx { Response.zero with dAddr := byteAt rx 1, dPart := byteAt rx 2 ++ byteAt rx 3 } s

end Sys2Proof.Machine
end

