-- ==== Sys2Proof/Machine/StandardCommands.lean ====
section
/-! DEFINITION. The tri-state motion-intent encoder: BUILD_STD (R180) and the read of its sticky speeds, READ_SESSION
(R200). -/

namespace Sys2Proof.Machine

/-- `Matrix(scan, cam)`: (sense, scanCam), or nothing where the pair is illegal (R182, R183). -/
def matrix : Option ScanMode → Option CamState → Option (Bool × BitVec 2)
  | none, none => some (false, 0)
  | none, some .off => some (false, 1)
  | none, some .on => some (true, 1)
  | some .manual, none => some (false, 2)
  | some .manual, some .off => some (false, 3)
  | some .manual, some .on => none
  | some .auto, none => some (true, 2)
  | some .auto, some .off => none
  | some .auto, some .on => some (true, 3)

/-- cmd1 (R184). -/
def packCmd1 (sense : Bool) (scanCam : BitVec 2) (m : Motion) : Byte :=
  BitVec.ofBool sense ++ 0b00#2 ++ scanCam ++ BitVec.ofBool (m.iris = some .closing)
    ++ BitVec.ofBool (m.iris = some .opening) ++ BitVec.ofBool (m.focus = some .near)

/-- cmd2 (R185). -/
def packCmd2 (m : Motion) : Byte :=
  BitVec.ofBool (m.focus = some .far) ++ BitVec.ofBool (m.zoom = some .zoomOut)
    ++ BitVec.ofBool (m.zoom = some .zoomIn) ++ BitVec.ofBool (m.tilt = some .down)
    ++ BitVec.ofBool (m.tilt = some .up) ++ BitVec.ofBool (m.pan = some .left)
    ++ BitVec.ofBool (m.pan = some .right) ++ 0b0#1

/-- BUILD_STD (R180), its checks in the order of R191: reserved codes, matrix, pan speed, tilt speed. -/
def execBuildStd (addr : Byte) (intent : Intent) (psp tsp : Bool) (panSpeed tiltSpeed : Arg) (s : State) :
    Host.Outcome State Fault Refusal :=
  match readIntent intent with
  | .error index => raise .reservedEncoding index s
  | .ok m =>
    match matrix m.scan m.cam with
    | none => raise .illegalModeCombination 0 s
    | some (sense, scanCam) =>
      match resolveSpeed psp panSpeed s.stickyPan 5 1 with
      | .error info => raise .invalidSpeed info s
      | .ok p =>
        match resolveSpeed tsp tiltSpeed s.stickyTilt 6 2 with
        | .error info => raise .invalidSpeed info s
        | .ok t => finish .ok (emitFrame addr (packCmd1 sense scanCam m) (packCmd2 m) p t) (s.commitSpeeds p t)

/-- READ_SESSION (R200). -/
def execReadSession (s : State) : Host.Outcome State Fault Refusal :=
  finish .ok
    { Response.zero with
      sPanV := s.stickyPan.isSome, sPan := s.stickyPan.getD 0, sTiltV := s.stickyTilt.isSome,
      sTilt := s.stickyTilt.getD 0 }
    s

end Sys2Proof.Machine
end

