-- ==== Sys2Proof/Machine/Dispatch.lean ====
section
/-! DEFINITION. From an instruction to its meaning. -/

namespace Sys2Proof.Machine

def exec (i : Instr) (s : State) : Host.Outcome State Fault Refusal :=
  match i with
  | .encode addr cmd1 cmd2 data1 data2 => Sys2Proof.Machine.execEncode addr cmd1 cmd2 data1 data2 s
  | .issueExt addr cmdId a1p a2p arg1 arg2 => Sys2Proof.Machine.execIssueExt addr cmdId a1p a2p arg1 arg2 s
  | .buildStd addr intent psp tsp panSpeed tiltSpeed => Sys2Proof.Machine.execBuildStd addr intent psp tsp panSpeed tiltSpeed s
  | .decodeCmd n rx => Sys2Proof.Machine.execDecodeCmd n rx s
  | .decodeStatus n rx => Sys2Proof.Machine.execDecodeStatus n rx s
  | .decodeQuery n rx => Sys2Proof.Machine.execDecodeQuery n rx s
  | .readSession => Sys2Proof.Machine.execReadSession s

end Sys2Proof.Machine
end

