-- ==== Sys2Proof/Machine/Ports.lean ====
section
/-! DEFINITION. The port protocol: what one rising edge of `clk` does (R26, R29, R280-R286), and a request taken as one
transaction (R29, R58). -/

namespace Sys2Proof.Machine

/-- The operation a request word asks for, run as a whole (R71): a rejected word raises ReservedEncoding (R72, R73). -/
def runRequest (w : ReqWord) (s : State) : Host.Outcome State Fault Refusal :=
  match decode w with
  | .instr i => exec i s
  | .reject r => raise .reservedEncoding (rejectInfo r) s

/-- An edge with `rst` = 0 after the first reset, `p` the pins sampled on it: a request is accepted only when the
block is not busy, takes effect when `rsp_valid` rises, and its response stays until it is consumed (R26, R29, R286). -/
def clockEdge (p : Pins) (s : State) : Host.Outcome State Fault Refusal :=
  match s.phase with
  | .idle => if p.reqValid then .next (s.accept p.reqWord) else .next s
  | .inFlight w left => if left ≤ 1 then runRequest w s else .next (s.wait w (left - 1))
  | .responding => if p.rspReady then .next s.consume else .next s

/-- A rising edge: `rst` wins over everything (R280, R281), and before the first reset there is no other step (R283). -/
def risingEdge (p : Pins) (s : State) : Host.Outcome State Fault Refusal :=
  if p.rst then .next s.applyReset
  else if s.resetSeen = false then .fault .noStepBeforeFirstReset
  else clockEdge p s

/-- A request as one transaction: accepted, completed and its response consumed, with no reset between (R29, R58).
The state is the one after consumption; its `rsp` is the response the host got. -/
def transact (w : ReqWord) (s : State) : Host.Outcome State Fault Refusal :=
  match runRequest w s with
  | .next t => .next { t with phase := .idle, reqIndex := s.reqIndex + 1, accepted := s.accepted + 1 }
  | .fault f => .fault f
  | .refused r => .refused r

/-- The response the host consumes on the coming edge, if it does (R26); an edge with `rst` = 1 consumes none (log 12). -/
def State.handsOver (s : State) : Option Response :=
  if s.rspValid && s.pins.rspReady && !s.pins.rst then some s.rsp else none

/-- A program of the host, a finite sequence of request words, run transaction by transaction (R22, R264): the
responses in order and the last state. -/
def runProgram : List ReqWord → State → List Response × State
  | [], s => ([], s)
  | w :: ws, s =>
    match transact w s with
    | .next t => (t.rsp :: (runProgram ws t).1, (runProgram ws t).2)
    | .fault _ => ([], s)
    | .refused _ => ([], s)

end Sys2Proof.Machine
end

