-- ==== Sys2Proof/Machine/Step.lean ====
section
/-! DEFINITION. One step of the machine: one rising edge of `clk` (R26). -/

namespace Sys2Proof.Machine

/-- One rising edge, on the pins the host drives; a configuration a model must refuse is refused (R88, R31). -/
def step (s : State) : Host.Outcome State Fault Refusal :=
  if s.cfg.wf then risingEdge s.pins s.tick else .refused .configurationRefused

/-- `s` with a request word accepted and due on the very next edge, which is no reset (log 17): the word is where the
block keeps the request it will run. -/
def State.withFetchWord (s : State) (nbits w : Nat) : State :=
  { s with phase := .inFlight (tableWord nbits w) 1, resetSeen := true, inputs := Pins.quiet :: s.inputs }

end Sys2Proof.Machine
end

