-- ==== Sys2Proof/Machine/Assembler.lean ====
section
/-! DEFINITION. The assembly syntax (R96) and its pseudo-instructions (R97), as abstract syntax: each line stands for
one request. -/

namespace Sys2Proof.Machine

/-- ID of an `ext` line: a number or a name of the catalog (R96). -/
inductive ExtId where
  | num (id : Byte)
  | name (op : CatalogOp)
  deriving DecidableEq, Repr

/-- The direction of a `move` line (R97). -/
inductive MoveDir where
  | pan (d : PanDir)
  | tilt (d : TiltDir)
  deriving DecidableEq, Repr

/-- An assembly line; `none` is a missing or `-` argument, key or speed (R96, R97). -/
inductive Asm where
  | encode (addr c1 c2 d1 d2 : Byte)
  | ext (addr : Byte) (id : ExtId) (x1 x2 : Option Arg)
  | std (addr : Byte) (m : Motion) (ps ts : Option Arg)
  | dcmd (bytes : List Byte)
  | dstat (bytes : List Byte)
  | dquery (bytes : List Byte)
  | rdsess
  | stop (addr : Byte)
  | move (addr : Byte) (d : MoveDir) (speed : Arg)
  | camon (addr : Byte)
  | camoff (addr : Byte)
  | goto (addr : Byte) (preset : Arg)
  | zeropan (addr : Byte)
  deriving DecidableEq, Repr

/-- The tri-state of an optional value whose first value (R81) is `a`. -/
def triOf {α : Type} [DecidableEq α] (a : α) : Option α → Tri
  | none => .none
  | some x => if x = a then .first else .second

/-- The intent field of a motion intent (R81). -/
def intentOfMotion (m : Motion) : Intent where
  pan   := triOf .left m.pan
  tilt  := triOf .up m.tilt
  iris  := triOf .opening m.iris
  focus := triOf .near m.focus
  zoom  := triOf .zoomIn m.zoom
  scan  := triOf .auto m.scan
  cam   := triOf .on m.cam

/-- The bytes of a format D line, the missing ones 0. -/
def padBytes (bs : List Byte) : Bytes7 :=
  ⟨bs.getD 0 0, bs.getD 1 0, bs.getD 2 0, bs.getD 3 0, bs.getD 4 0, bs.getD 5 0, bs.getD 6 0⟩

/-- The id an `ext` line names; a name the configuration does not hold has none. -/
def extIdOf (c : Config) : ExtId → Option Byte
  | .num id => some id
  | .name op => c.idOf op

/-- A format X line. -/
def asmExt (c : Config) (addr : Byte) (id : ExtId) (x1 x2 : Option Arg) : Option Instr :=
  (extIdOf c id).map fun k => .issueExt addr k x1.isSome x2.isSome (x1.getD 0) (x2.getD 0)

/-- A format S line. -/
def asmStd (addr : Byte) (m : Motion) (ps ts : Option Arg) : Instr :=
  .buildStd addr (intentOfMotion m) ps.isSome ts.isSome (ps.getD 0) (ts.getD 0)

/-- The request of a line (R96, R97); none for a name that is not in the catalog and for more than 7 bytes. -/
def assemble (c : Config) : Asm → Option Instr
  | .encode a c1 c2 d1 d2 => some (.encode a c1 c2 d1 d2)
  | .ext a id x1 x2 => asmExt c a id x1 x2
  | .std a m ps ts => some (asmStd a m ps ts)
  | .dcmd bs => if bs.length ≤ 7 then some (.decodeCmd bs.length (padBytes bs)) else none
  | .dstat bs => if bs.length ≤ 7 then some (.decodeStatus bs.length (padBytes bs)) else none
  | .dquery bs => if bs.length ≤ 7 then some (.decodeQuery bs.length (padBytes bs)) else none
  | .rdsess => some .readSession
  | .stop a => some (asmStd a Motion.still none none)
  | .move a (.pan d) s => some (asmStd a { Motion.still with pan := some d } (some s) none)
  | .move a (.tilt d) s => some (asmStd a { Motion.still with tilt := some d } none (some s))
  | .camon a => some (asmStd a { Motion.still with cam := some .on } none none)
  | .camoff a => some (asmStd a { Motion.still with cam := some .off } none none)
  | .goto a p => asmExt c a (.name .callPreset) none (some p)
  | .zeropan a => asmExt c a (.name .gotoZeroPan) none none

/-- The request word of a line. -/
def asmWord (c : Config) (l : Asm) : Option ReqWord := (assemble c l).map Sys2Proof.encode

/-- Line `l` stands for the request `i`: it has a request word, and the block reads `i` from it. -/
def asksFor (c : Config) (l : Asm) (i : Instr) : Prop := ∃ w, asmWord c l = some w ∧ decode w = .instr i

end Sys2Proof.Machine
end

