-- ==== Sys2Proof/Safety.lean ====
section
/-! DEFINITION. What counts as a sound state and a sound host: the machine's invariant, the host's duties on the port
(R262), boot (R284) and what is observed of a run (R264). -/

namespace Sys2Proof

open Sys2Proof.Machine

/-- A transmit frame is a whole command frame (R90): sync first, checksum last. -/
def frameOk (tx : Bytes7) : Bool :=
  decide (tx.b0 = 0xFF#8) && decide (tx.b6 = sum8 [tx.b1, tx.b2, tx.b3, tx.b4, tx.b5])

/-- What every response record satisfies: a listed code with a listed info (R250, R252), every other field 0 unless
the code is OK (R28, R251), a frame only with `tx_len` = 7 and then a whole one (R27, R90), and sticky values as
READ_SESSION reads them (R24, R200). -/
def responseOk (r : Response) : Bool :=
  (infosOf r.code).contains r.info
    && (decide (r.code = 0#4) || decide (r = { Response.zero with code := r.code, info := r.info }))
    && ((decide (r.txLen = 7#3) && frameOk r.tx) || (decide (r.txLen = 0#3) && decide (r.tx = Response.zero.tx)))
    && (if r.sPanV then legalSpeed r.sPan else decide (r.sPan = 0#8))
    && (if r.sTiltV then legalSpeed r.sTilt else decide (r.sTilt = 0#8))

/-- A request in flight has at least one edge to go (R29). -/
def phaseOk : Phase → Bool
  | .idle => true
  | .inFlight _ left => decide (1 ≤ left)
  | .responding => true

/-- The invariant: a configuration that is not refused, sticky registers that hold legal speeds (R24), a response
record as above, a latency that has not run out. -/
abbrev Inv (s : State) : Prop :=
  s.cfg.wf = true ∧ stickyLegal s.stickyPan = true ∧ stickyLegal s.stickyTilt = true ∧ responseOk s.rsp = true
    ∧ phaseOk s.phase = true

/-- The sticky registers hold legal speeds, as R24 says of every reachable state. -/
abbrev StickyOk (s : State) : Prop := stickyLegal s.stickyPan = true ∧ stickyLegal s.stickyTilt = true

/-- The block can run: a configuration that is not refused, and a reset since power-up (R283, R284). -/
abbrev Ready (s : State) : Prop := s.cfg.wf = true ∧ s.resetSeen = true

/-- A host that holds a request that was not accepted (R262): `ready` is `req_ready` on the edge of `p`, and `q` the
pins of the next edge. DESIGN CHOICE (log 22): R262 asks only that `req_word` is stable while `req_valid` = 1 and
`req_ready` = 0; this host also keeps `req_valid` at 1, and word and `req_valid` up to the edge that accepts them, on
which `req_ready` has risen. -/
def holdsRequest (ready : Bool) (p q : Pins) : Bool :=
  !p.reqValid || ready || (q.reqValid && decide (q.reqWord = p.reqWord))

/-- Bit `k` is reserved in the format of operation `op`: the reserved rows of R74, R75, R77, R78 and R79. -/
def reservedPos (op k : Nat) : Bool :=
  match op with
  | 1 => decide (4 ≤ k ∧ k ≤ 7) || decide (48 ≤ k ∧ k ≤ 127)
  | 2 => decide (4 ≤ k ∧ k ≤ 7) || decide (26 ≤ k ∧ k ≤ 31) || decide (96 ≤ k ∧ k ≤ 127)
  | 3 => decide (4 ≤ k ∧ k ≤ 7) || decide (96 ≤ k ∧ k ≤ 127)
  | 4 => decide (k = 7) || decide (64 ≤ k ∧ k ≤ 127)
  | 5 => decide (k = 7) || decide (64 ≤ k ∧ k ≤ 127)
  | 6 => decide (k = 7) || decide (64 ≤ k ∧ k ≤ 127)
  | 7 => decide (4 ≤ k ∧ k ≤ 127)
  | _ => false

/-- The number of the error a slot of kind `k` with bytes `lo` and `hi` makes of its argument, if any, as R143-R145 put
it: 5 a fixed slot's mismatch, 3 a missing and 4 an out-of-range argument of a range slot (R250). -/
def slotError (k : Bool) (lo hi : Byte) (present : Bool) (v : Arg) : Option (BitVec 4) :=
  if k = false then
    if present = true ∧ v.toNat ≠ lo.toNat then some 5 else none
  else if present = false then some 3
  else if lo.toNat ≤ v.toNat ∧ v.toNat ≤ hi.toNat then none
  else some 4

/-- The same response sent to address `a'` instead of `a`: in an emitted frame byte 1 is the new address and the
checksum moves by the difference (R84, R90). -/
def readdress (a a' : Byte) (r : Response) : Response :=
  if r.txLen = 7#3 then { r with tx := { r.tx with b1 := a', b6 := r.tx.b6 - a + a' } } else r

/-- Step 1 and step 2 of R284 have been done. -/
abbrev Booted (s : State) : Prop := s.cfg.bootReady = true ∧ s.resetSeen = true

/-- A run has ended (R264): nothing is in flight, and the host presents no further request. -/
def runEnded (s : State) : Bool := !s.busy && s.inputs.all (fun p => !p.reqValid)

/-- What is observed of `k` edges (R264): the responses handed over, and the sticky registers at the end. -/
def observe : Nat → State → List Response × (Option Byte × Option Byte)
  | 0, s => ([], s.stickyPan, s.stickyTilt)
  | k + 1, s =>
    match step s with
    | .next t => (s.handsOver.toList ++ (observe k t).1, (observe k t).2)
    | .fault _ => ([], s.stickyPan, s.stickyTilt)
    | .refused _ => ([], s.stickyPan, s.stickyTilt)

end Sys2Proof
end

