-- ==== Sys2Proof/Certificates/Slice0/Obligations.lean ====
section
/-! DEFINITION. The statements for the provers. -/

open Sys2Proof Sys2Proof.Machine

/-- R71-R79: the request word of every well-formed instruction reads back as that instruction. -/
def Obligations.DecodeOfEncode : Prop :=
  ∀ i : Instr, i.wf = true → decode (encode i) = .instr i

/-- R70-R79: a word that reads as an instruction is the request word of that instruction, which is well-formed. -/
def Obligations.EncodeOfDecode : Prop :=
  ∀ (w : ReqWord) (i : Instr), decode w = .instr i → i.wf = true ∧ encode i = w

/-- Request words of 95_test_vectors.md, one of each operation and of each rejection. -/
def Obligations.VectorWordsDecode : Prop :=
  decode 0x00000000000000000000002002000101#128 = .instr (.encode 0x01 0x00 0x02 0x20 0x00) ∧
  decode 0x00000000000000160000000002030102#128 = .instr (.issueExt 0x01 0x03 false true 0 22) ∧
  decode 0x000000000000003F000000FFD6A50103#128 =
    .instr (.buildStd 0x01 ⟨.first, .first, .second, .second, .second, .first, .first⟩ true true 0xFF 0x3F) ∧
  decode 0x0000000000000000230020020001FF74#128 =
    .instr (.decodeCmd 7 ⟨0xFF, 0x01, 0x00, 0x02, 0x20, 0x00, 0x23⟩) ∧
  decode 0x0000000000000000000000060501FF45#128 = .instr (.decodeStatus 4 ⟨0xFF, 0x01, 0x05, 0x06, 0, 0, 0⟩) ∧
  decode 0x0000000000000000000047341201FF56#128 = .instr (.decodeQuery 5 ⟨0xFF, 0x01, 0x12, 0x34, 0x47, 0, 0⟩) ∧
  decode 0x00000000000000000000000000000007#128 = .instr .readSession ∧
  decode 0x0000000000000000000000200200010F#128 = .reject .reservedOp ∧
  decode 0x00000000000000000000002002000111#128 = .reject .reservedBit

/-- R72: exactly the op values 0x0 and 0x8..0xF are reserved, and such a request raises ReservedEncoding(0) whatever its
other bits are, changing no state and emitting no frame; every other value is not rejected for its op. -/
def Obligations.ReservedOpRaises : Prop :=
  ∀ (w : ReqWord) (s : State),
    (decode w = .reject .reservedOp ↔ (opField w = 0x0#4 ∨ 0x8 ≤ (opField w).toNat)) ∧
    ((opField w = 0x0#4 ∨ 0x8 ≤ (opField w).toNat) →
      runRequest w s = .next { s with rsp := { Response.zero with code := 11, info := 0 }, phase := .responding })

/-- R71: a reserved op first, then a reserved bit of the word's format, then the operation. -/
def Obligations.RequestDecodingOrder : Prop :=
  ∀ (w : ReqWord) (s : State),
    ((opField w = 0x0#4 ∨ 0x8 ≤ (opField w).toNat) →
      runRequest w s = .next { s with rsp := { Response.zero with code := 11, info := 0 }, phase := .responding }) ∧
    (¬(opField w = 0x0#4 ∨ 0x8 ≤ (opField w).toNat) →
      ((∃ k, reservedPos (opField w).toNat k = true ∧ w.getLsbD k = true) →
        runRequest w s =
          .next { s with rsp := { Response.zero with code := 11, info := 15 }, phase := .responding }) ∧
      ((∀ k, reservedPos (opField w).toNat k = true → w.getLsbD k = false) →
        ∃ i, decode w = .instr i ∧ runRequest w s = exec i s))

/-- R70, R74, R75, R77, R79, R80, R81 and the table of R78: which operation a word without a reserved bit asks for, and
from which bits each of its operands comes. -/
def Obligations.RequestFields : Prop :=
  ∀ w : ReqWord, (∀ k, reservedPos (opField w).toNat k = true → w.getLsbD k = false) →
    (opField w = 0x1#4 → decode w = .instr (.encode (w.extractLsb' 8 8) (w.extractLsb' 16 8) (w.extractLsb' 24 8)
      (w.extractLsb' 32 8) (w.extractLsb' 40 8))) ∧
    (opField w = 0x2#4 → decode w = .instr (.issueExt (w.extractLsb' 8 8) (w.extractLsb' 16 8) (w.getLsbD 24)
      (w.getLsbD 25) (w.extractLsb' 32 32) (w.extractLsb' 64 32))) ∧
    (opField w = 0x3#4 → ∃ m : Intent,
      decode w = .instr (.buildStd (w.extractLsb' 8 8) m (w.getLsbD 30) (w.getLsbD 31) (w.extractLsb' 32 32)
        (w.extractLsb' 64 32)) ∧
      ∀ j, j < 7 → [m.pan, m.tilt, m.iris, m.focus, m.zoom, m.scan, m.cam][j]? =
        [Tri.none, .first, .second, .reserved][(w.extractLsb' (16 + 2 * j) 2).toNat]?) ∧
    (4 ≤ (opField w).toNat → (opField w).toNat ≤ 6 → ∃ (n : Nat) (rx : Bytes7), n = w.toNat / 16 % 8 ∧
      (∀ k, k < 7 → byteAt rx k = w.extractLsb' (8 + 8 * k) 8) ∧
      (opField w = 0x4#4 → decode w = .instr (.decodeCmd n rx)) ∧
      (opField w = 0x5#4 → decode w = .instr (.decodeStatus n rx)) ∧
      (opField w = 0x6#4 → decode w = .instr (.decodeQuery n rx))) ∧
    (opField w = 0x7#4 → decode w = .instr .readSession)

/-- R76: requests that differ only in the value field of an absent argument or an absent speed behave the same. -/
def Obligations.AbsentValuesIgnored : Prop :=
  ∀ (addr cmdId : Byte) (m : Intent) (p1 p2 : Bool) (x1 x2 y1 y2 : Arg) (s : State),
    (p1 = true → x1 = y1) → (p2 = true → x2 = y2) →
    exec (.issueExt addr cmdId p1 p2 x1 x2) s = exec (.issueExt addr cmdId p1 p2 y1 y2) s ∧
    exec (.buildStd addr m p1 p2 x1 x2) s = exec (.buildStd addr m p1 p2 y1 y2) s

/-- R78, R55: a received byte at index n or above is not looked at. -/
def Obligations.UnreceivedBytesIgnored : Prop :=
  ∀ (n : Nat) (rx rx' : Bytes7) (s : State), (∀ k, k < n → k < 7 → byteAt rx k = byteAt rx' k) →
    exec (.decodeCmd n rx) s = exec (.decodeCmd n rx') s ∧
    exec (.decodeStatus n rx) s = exec (.decodeStatus n rx') s ∧
    exec (.decodeQuery n rx) s = exec (.decodeQuery n rx') s

/-- R26, R29: when the latency of a request has run out, the step is the operation its word decodes to, on the state
whose input schedule has moved on by one edge. The second clause is the model's own way of placing a word, not a rule of
the spec (log 17, DESIGN CHOICE): a word placed by `withFetchWord` runs on the very next edge. -/
def Obligations.StepRunsDecodedRequest : Prop :=
  (∀ (s : State) (w : ReqWord) (i : Instr), Ready s → s.pins.rst = false → s.phase = .inFlight w 1 →
    decode w = .instr i → step s = exec i { s with inputs := s.inputs.tail }) ∧
  (∀ (s : State) (nbits w : Nat) (i : Instr), s.cfg.wf = true → decodeTableWord nbits w = some i →
    step (s.withFetchWord nbits w) =
      exec i { s with phase := .inFlight (tableWord nbits w) 1, resetSeen := true })

/-- R26, R29: with `BUSY` = 0 and no reset, the edge accepts the word on the port when `req_valid` is 1 (then `BUSY` = 1,
with at least one edge to go) and changes nothing when it is 0. -/
def Obligations.AcceptingEdge : Prop :=
  ∀ s : State, Ready s → s.pins.rst = false → s.phase = .idle →
    (s.pins.reqValid = true → ∃ left, 1 ≤ left ∧
      step s = .next { s with phase := .inFlight s.pins.reqWord left, accepted := s.accepted + 1,
                              inputs := s.inputs.tail }) ∧
    (s.pins.reqValid = false → step s = .next { s with inputs := s.inputs.tail })

/-- R286: while `BUSY` = 1 a presented request is not accepted: the edge does not look at `req_valid` and `req_word`. -/
def Obligations.BusyBlockIgnoresRequests : Prop :=
  ∀ (s : State) (p q : Pins) (rest : List Pins), s.busy = true → p.rst = q.rst → p.rspReady = q.rspReady →
    step { s with inputs := p :: rest } = step { s with inputs := q :: rest }

/-- R26, R29, R22: a presented response stays as it is until it is consumed; consuming it ends `BUSY` and moves the
request index on. -/
def Obligations.ResponseHeldThenConsumed : Prop :=
  ∀ s : State, Ready s → s.pins.rst = false → s.phase = .responding →
    (s.pins.rspReady = false → step s = .next { s with inputs := s.inputs.tail }) ∧
    (s.pins.rspReady = true →
      step s = .next { s with phase := .idle, reqIndex := s.reqIndex + 1, inputs := s.inputs.tail })

/-- R29: on an edge before `rsp_valid` rises a request in flight only comes one edge nearer. -/
def Obligations.NoEffectBeforeResponse : Prop :=
  ∀ (s : State) (w : ReqWord) (left : Nat), Ready s → s.pins.rst = false → s.phase = .inFlight w (left + 2) →
    step s = .next { s with phase := .inFlight w (left + 1), inputs := s.inputs.tail }

/-- R280, R282: an edge with `rst` = 1 gives every piece of state its value after reset, from any state, also with a request
in flight or a response waiting, leaves the configuration as it was, and no request is accepted while `rst` = 1. -/
def Obligations.ResetEdge : Prop :=
  ∀ s : State, s.cfg.wf = true →
    (s.pins.rst = true →
      ∃ t, step s = .next t ∧ t.stickyPan = s.cfg.stickyResetPan ∧ t.stickyTilt = s.cfg.stickyResetTilt ∧
        t.busy = false ∧ t.rspValid = false ∧ t.rsp = Response.zero ∧ t.cfg = s.cfg) ∧
    s.reqReady true = false

/-- R31: the state after reset: sticky registers at their parameters, `BUSY` = 0, `rsp_valid` = 0, the record all 0,
ready for a request. That the parameters are `Unwritten` and the catalog the reference one is the model's choice (log 5, 6). -/
def Obligations.ResetState : Prop :=
  State.reset.stickyPan = State.reset.cfg.stickyResetPan ∧
  State.reset.stickyTilt = State.reset.cfg.stickyResetTilt ∧
  State.reset.busy = false ∧ State.reset.rspValid = false ∧ State.reset.reqReady false = true ∧
  State.reset.rsp = Response.zero ∧ State.reset.cfg = Config.default

/-- R283: before the first reset the block has no step other than a reset. -/
def Obligations.NoStepBeforeFirstReset : Prop :=
  ∀ s : State, s.cfg.wf = true → s.resetSeen = false →
    (s.pins.rst = false → step s = .fault .noStepBeforeFirstReset) ∧
    (s.pins.rst = true → ∃ t, step s = .next t ∧ t.resetSeen = true ∧ t.busy = false)

/-- R88: a catalog with a word that breaks one of the checks (a) to (e) is refused. That the step refuses it, on every
edge, is log 8 (DEDUCED); that check (e) is made of every listed pair named GotoZeroPan, also where its id has no entry,
is log 20 (DEDUCED). -/
def Obligations.BadCatalogRefused : Prop :=
  ∀ (s : State) (id : Nat) (e : CatWord), e = Memory.read s.cfg.cat id →
    ((e.getLsbD 0 = false ∧ e ≠ 0#64) ∨
     (∃ k, ((3 ≤ k ∧ k ≤ 7) ∨ (56 ≤ k ∧ k ≤ 63)) ∧ e.getLsbD k = true) ∨
     (e.getLsbD 1 = false ∧ e.extractLsb' 32 8 ≠ 0#8) ∨ (e.getLsbD 2 = false ∧ e.extractLsb' 48 8 ≠ 0#8) ∨
     (e.getLsbD 1 = true ∧ e.extractLsb' 32 8 < e.extractLsb' 24 8) ∨
     (e.getLsbD 2 = true ∧ e.extractLsb' 48 8 < e.extractLsb' 40 8) ∨
     (∃ b : Byte, (.gotoZeroPan, b) ∈ s.cfg.names ∧ b.toNat = id ∧ e ≠ 0x0000160000070001#64)) →
    step s = .refused .configurationRefused

/-- R31: a reset parameter that is neither `Unwritten` nor a legal speed is refused. -/
def Obligations.BadResetSpeedRefused : Prop :=
  ∀ (s : State) (b : Byte), (s.cfg.stickyResetPan = some b ∨ s.cfg.stickyResetTilt = some b) →
    0x3F < b.toNat → b.toNat ≠ 0xFF → step s = .refused .configurationRefused

/-- R88, R162, R284: the default configuration is not refused and holds every required operation (the reference catalog is
general knowledge, log 6, 16). -/
def Obligations.ReferenceCatalogBoots : Prop :=
  Config.default.bootReady = true ∧ Memory.wf Config.default.cat = true ∧
  Memory.read Config.default.cat 3 = 0x0000160000070001#64 ∧
  ∀ id, 37 ≤ id → id < 256 → (Memory.read Config.default.cat id).getLsbD 0 = false

/-- R24, R27, R28, R250, R252: every step keeps the invariant, from every state that meets it. -/
def Obligations.StepKeepsInvariant : Prop :=
  ∀ s t : State, Inv s → step s = .next t → Inv t

/-- R280, R31: an edge with `rst` = 1 leads to the invariant from every state with a configuration that is not refused, also
before the first reset. The second clause speaks of the default configuration, with the reference catalog (log 5, 6: the
model's choice). -/
def Obligations.ResetMeetsInvariant : Prop :=
  (∀ s : State, s.cfg.wf = true → s.pins.rst = true → ∃ t, step s = .next t ∧ Inv t) ∧ Inv State.reset

/-- R25, R51, R282: no step changes the configuration, and every catalog word reads as before. -/
def Obligations.StepKeepsConfiguration : Prop :=
  ∀ s t : State, step s = .next t →
    t.cfg = s.cfg ∧ ∀ id, Memory.read t.cfg.cat id = Memory.read s.cfg.cat id

/-- R24, R55, R58: the frame of all seven operations: of the state an operation writes only the response, which it
presents, and, where it is a BUILD_STD, the sticky registers. -/
def Obligations.OperationFrame : Prop :=
  ∀ (i : Instr) (s t : State), exec i s = .next t →
    t.cfg = s.cfg ∧ (∀ id, Memory.read t.cfg.cat id = Memory.read s.cfg.cat id) ∧ t.resetSeen = s.resetSeen ∧
    t.reqIndex = s.reqIndex ∧ t.accepted = s.accepted ∧ t.inputs = s.inputs ∧ t.phase = .responding ∧
    ((∀ addr m psp tsp ps ts, i ≠ .buildStd addr m psp tsp ps ts) →
      t.stickyPan = s.stickyPan ∧ t.stickyTilt = s.stickyTilt)

/-- R24: a step changes a sticky register only on a reset edge or when a BUILD_STD completes with OK. -/
def Obligations.OnlyStandardCommandsWriteSpeeds : Prop :=
  ∀ s t : State, step s = .next t → s.pins.rst = false →
    (t.stickyPan ≠ s.stickyPan ∨ t.stickyTilt ≠ s.stickyTilt) →
    ∃ w left, s.phase = .inFlight w left ∧ opField w = 0x3#4 ∧ t.rspValid = true ∧ t.rsp.code = 0#4

/-- R262: every request, whatever its word, completes with one response. -/
def Obligations.EveryRequestResponds : Prop :=
  ∀ (w : ReqWord) (s : State), ∃ t, runRequest w s = .next t ∧ t.rspValid = true

/-- R251: an operation that raises writes `code` and `info` and nothing else, neither in the response nor in the state,
and its response is presented and consumed like any other. -/
def Obligations.ErrorWritesOnlyCodeAndInfo : Prop :=
  ∀ (w : ReqWord) (s t : State), runRequest w s = .next t → 2 ≤ t.rsp.code.toNat →
    t = { s with rsp := { Response.zero with code := t.rsp.code, info := t.rsp.info }, phase := .responding } ∧
    transact w s = .next { s with rsp := { Response.zero with code := t.rsp.code, info := t.rsp.info },
                                  phase := .idle, reqIndex := s.reqIndex + 1, accepted := s.accepted + 1 }

/-- R250, R252: the codes 12..15 never occur, nor does an info that is not listed for its code. -/
def Obligations.ListedCodesAndInfos : Prop :=
  ∀ (w : ReqWord) (s t : State), runRequest w s = .next t →
    t.rsp.code.toNat ≤ 11 ∧
    (t.rsp.code.toNat ∈ [3, 4, 5] → t.rsp.info.toNat ∈ [1, 2]) ∧
    (t.rsp.code.toNat = 7 → t.rsp.info.toNat ∈ [1, 2, 5, 6]) ∧
    (t.rsp.code.toNat = 8 → t.rsp.info.toNat ∈ [1, 2, 3]) ∧
    (t.rsp.code.toNat = 11 → t.rsp.info.toNat ∈ [0, 1, 2, 3, 4, 5, 6, 7, 15]) ∧
    (t.rsp.code.toNat ∉ [3, 4, 5, 7, 8, 11] → t.rsp.info.toNat = 0)

/-- R27: `tx_len` is 7 exactly when the operation is ENCODE, ISSUE_EXT or BUILD_STD and its code is OK; otherwise it is 0
and no byte of a frame is emitted. -/
def Obligations.FrameEmittedExactlyWhenOk : Prop :=
  ∀ (w : ReqWord) (s t : State), runRequest w s = .next t →
    (t.rsp.txLen = 7#3 ↔ (opField w = 0x1#4 ∨ opField w = 0x2#4 ∨ opField w = 0x3#4) ∧ t.rsp.code = 0#4) ∧
    (t.rsp.txLen ≠ 7#3 → t.rsp.txLen = 0#3 ∧ t.rsp.tx = ⟨0, 0, 0, 0, 0, 0, 0⟩)

/-- R23, R28: an operation sees neither the outcome of an earlier one nor anything left in the response record: in two
states that agree on configuration and sticky registers it writes the same response and the same sticky registers. -/
def Obligations.OperationSeesNoEarlierOutcome : Prop :=
  ∀ (i : Instr) (s u : State), s.cfg = u.cfg → s.stickyPan = u.stickyPan → s.stickyTilt = u.stickyTilt →
    ∃ (r : Response) (p t : Option Byte),
      exec i s = .next { s with rsp := r, stickyPan := p, stickyTilt := t, phase := .responding } ∧
      exec i u = .next { u with rsp := r, stickyPan := p, stickyTilt := t, phase := .responding }

/-- R55 (an inference the spec marks as its own): repeating a request at once gives the same response and leaves the same state. -/
def Obligations.OperationsAreIdempotent : Prop :=
  ∀ (i : Instr) (s t : State), exec i s = .next t → exec i t = .next t

/-- R84: the address is never interpreted: another address gives the same outcome, with that address in frame byte 1. -/
def Obligations.AddressIsNotInterpreted : Prop :=
  ∀ (a a' c1 c2 d1 d2 cmdId : Byte) (m : Intent) (p1 p2 : Bool) (x1 x2 : Arg) (s t : State),
    (exec (.encode a c1 c2 d1 d2) s = .next t →
      exec (.encode a' c1 c2 d1 d2) s = .next { t with rsp := readdress a a' t.rsp }) ∧
    (exec (.issueExt a cmdId p1 p2 x1 x2) s = .next t →
      exec (.issueExt a' cmdId p1 p2 x1 x2) s = .next { t with rsp := readdress a a' t.rsp }) ∧
    (exec (.buildStd a m p1 p2 x1 x2) s = .next t →
      exec (.buildStd a' m p1 p2 x1 x2) s = .next { t with rsp := readdress a a' t.rsp })

/-- R110, R111: ENCODE always completes with OK and the frame of its five bytes, and writes no sticky register. -/
def Obligations.EncodeEmitsFrame : Prop :=
  ∀ (a c1 c2 d1 d2 : Byte) (s : State),
    exec (.encode a c1 c2 d1 d2) s =
      .next { s with
        phase := .responding
        rsp := { Response.zero with
          txLen := 7
          tx := ⟨0xFF, a, c1, c2, d1, d2,
            BitVec.ofNat 8 (a.toNat + c1.toNat + c2.toNat + d1.toNat + d2.toNat)⟩ } }

/-- R115 with R112 and R113: the outcome of DECODE_CMD for every count and all bytes. -/
def Obligations.DecodeCmdOutcome : Prop :=
  ∀ (n : Nat) (rx : Bytes7) (s : State), n ≤ 7 →
    exec (.decodeCmd n rx) s =
      .next { s with
        phase := .responding
        rsp :=
          if n = 0 then { Response.zero with code := 1 }
          else if n < 7 then { Response.zero with code := 8, info := 1 }
          else if rx.b0 ≠ 0xFF#8 then { Response.zero with code := 8, info := 3 }
          else if (rx.b1.toNat + rx.b2.toNat + rx.b3.toNat + rx.b4.toNat + rx.b5.toNat) % 256 ≠ rx.b6.toNat then
            { Response.zero with code := 9 }
          else { Response.zero with
            dAddr := rx.b1, dCmd1 := rx.b2, dCmd2 := rx.b3, dData1 := rx.b4, dData2 := rx.b5 } }

/-- R220, R222 with R112 and R113: the outcome of DECODE_STATUS for every count and all bytes. -/
def Obligations.DecodeStatusOutcome : Prop :=
  ∀ (n : Nat) (rx : Bytes7) (s : State),
    exec (.decodeStatus n rx) s =
      .next { s with
        phase := .responding
        rsp :=
          if n = 0 then { Response.zero with code := 1 }
          else if n < 4 then { Response.zero with code := 8, info := 1 }
          else if 4 < n then { Response.zero with code := 8, info := 2 }
          else if rx.b0 ≠ 0xFF#8 then { Response.zero with code := 8, info := 3 }
          else if (rx.b1.toNat + rx.b2.toNat) % 256 ≠ rx.b3.toNat then { Response.zero with code := 9 }
          else { Response.zero with dAddr := rx.b1, dAlarm := rx.b2 } }

/-- R230, R231 with R112 and R113: the outcome of DECODE_QUERY on both device variants, for every count and all bytes. -/
def Obligations.DecodeQueryOutcome : Prop :=
  ∀ (n : Nat) (rx : Bytes7) (s : State),
    exec (.decodeQuery n rx) s =
      .next { s with
        phase := .responding
        rsp :=
          if s.cfg.querySupported = false then { Response.zero with code := 10 }
          else if n = 0 then { Response.zero with code := 1 }
          else if n < 5 then { Response.zero with code := 8, info := 1 }
          else if 5 < n then { Response.zero with code := 8, info := 2 }
          else if rx.b0 ≠ 0xFF#8 then { Response.zero with code := 8, info := 3 }
          else if (rx.b1.toNat + rx.b2.toNat + rx.b3.toNat) % 256 ≠ rx.b4.toNat then
            { Response.zero with code := 9 }
          else { Response.zero with
            dAddr := rx.b1, dPart := BitVec.ofNat 16 (rx.b2.toNat * 256 + rx.b3.toNat) } }

/-- R221: of a decoded status reply, alarm k is active exactly when bit k-1 of the alarm byte is 1; the eight flags are
independent: every vector is some reply's. -/
def Obligations.AlarmVectorBits : Prop :=
  (∀ (n : Nat) (rx : Bytes7) (s t : State), exec (.decodeStatus n rx) s = .next t → t.rsp.code = 0#4 →
    ∀ k, 1 ≤ k → k ≤ 8 → t.rsp.dAlarm.getLsbD (k - 1) = rx.b2.getLsbD (k - 1)) ∧
  (∀ (v a : Byte) (s : State), ∃ t,
    exec (.decodeStatus 4 ⟨0xFF, a, v, a + v, 0, 0, 0⟩) s = .next t ∧ t.rsp.code = 0#4 ∧ t.rsp.dAlarm = v)

/-- R114 (b) (an inference the spec marks as its own): changing one byte after the sync byte of a valid frame of any of
the three layouts always gives ChecksumError. -/
def Obligations.OneChangedByteIsCaught : Prop :=
  ∀ (len : Nat) (rx rx' : Bytes7) (k : Nat), (len = 4 ∨ len = 5 ∨ len = 7) → checkFrame len len rx = .valid →
    1 ≤ k → k < len → byteAt rx k ≠ byteAt rx' k → (∀ j, j < 7 → j ≠ k → byteAt rx j = byteAt rx' j) →
    checkFrame len len rx' = .error .checksumError 0

/-- R116 (an inference the spec marks as its own): DECODE_CMD recovers the five bytes from the frame ENCODE emits. -/
def Obligations.EncodeDecodeFrameRoundTrip : Prop :=
  ∀ (a c1 c2 d1 d2 : Byte) (s t s' : State), exec (.encode a c1 c2 d1 d2) s = .next t →
    exec (.decodeCmd 7 t.rsp.tx) s' =
      .next { s' with
        phase := .responding
        rsp := { Response.zero with dAddr := a, dCmd1 := c1, dCmd2 := c2, dData1 := d1, dData2 := d2 } }

/-- R142-R145: `ValidateArg` on a fixed slot and on a range slot, absent and present. -/
def Obligations.ArgumentValidation : Prop :=
  ∀ (b lo hi : Byte) (v : Arg),
    validateArg (.fixed b) false v = .ok b ∧
    (v.toNat = b.toNat → validateArg (.fixed b) true v = .ok b) ∧
    (v.toNat ≠ b.toNat → validateArg (.fixed b) true v = .error .argumentMismatch) ∧
    validateArg (.range lo hi) false v = .error .missingArgument ∧
    (lo.toNat ≤ v.toNat ∧ v.toNat ≤ hi.toNat →
      ∃ r, validateArg (.range lo hi) true v = .ok r ∧ r.toNat = v.toNat) ∧
    (¬(lo.toNat ≤ v.toNat ∧ v.toNat ≤ hi.toNat) →
      validateArg (.range lo hi) true v = .error .argumentOutOfRange) ∧
    (256 ≤ v.toNat → validateArg (.range lo hi) true v = .error .argumentOutOfRange)

/-- R150 (b) (an inference the spec marks as its own): a range accepts both its bounds and fails just outside them; below a
lower bound 0 the value is the 32-bit pattern of -1. -/
def Obligations.RangeBoundaries : Prop :=
  ∀ lo hi : Byte, lo.toNat ≤ hi.toNat →
    validateArg (.range lo hi) true (lo.setWidth 32) = .ok lo ∧
    validateArg (.range lo hi) true (hi.setWidth 32) = .ok hi ∧
    validateArg (.range lo hi) true (hi.setWidth 32 + 1) = .error .argumentOutOfRange ∧
    validateArg (.range lo hi) true (lo.setWidth 32 - 1) = .error .argumentOutOfRange

/-- R140, R146: ISSUE_EXT completes with OK where the entry is valid and both arguments are accepted: the frame of the
entry's word3 and word4 and the two validated arguments; it writes no sticky register. -/
def Obligations.IssueExtEmitsFrame : Prop :=
  ∀ (addr cmdId r1 r2 : Byte) (p1 p2 : Bool) (x1 x2 : Arg) (s : State) (e : CatWord),
    e = Memory.read s.cfg.cat cmdId.toNat → e.getLsbD 0 = true →
    validateArg (ArgSpec.ofFields (e.getLsbD 1) (e.extractLsb' 24 8) (e.extractLsb' 32 8)) p1 x1 = .ok r1 →
    validateArg (ArgSpec.ofFields (e.getLsbD 2) (e.extractLsb' 40 8) (e.extractLsb' 48 8)) p2 x2 = .ok r2 →
    exec (.issueExt addr cmdId p1 p2 x1 x2) s =
      .next { s with
        phase := .responding
        rsp := { Response.zero with
          txLen := 7
          tx := ⟨0xFF, addr, e.extractLsb' 8 8, e.extractLsb' 16 8, r1, r2,
            BitVec.ofNat 8 (addr.toNat + (e.extractLsb' 8 8).toNat + (e.extractLsb' 16 8).toNat + r1.toNat
              + r2.toNat)⟩ } }

/-- R141, R147, R148, with the numbers of R250: an id whose word has bit 0 = 0 raises UnknownCommand(0); with an entry both
slots are validated, the error of slot 1 is reported with info 1, also when slot 2 fails too, and that of slot 2 with
info 2 when slot 1 is accepted. -/
def Obligations.IssueExtErrors : Prop :=
  ∀ (addr cmdId : Byte) (p1 p2 : Bool) (x1 x2 : Arg) (s : State) (e : CatWord) (err1 err2 : Option (BitVec 4)),
    e = Memory.read s.cfg.cat cmdId.toNat →
    err1 = slotError (e.getLsbD 1) (e.extractLsb' 24 8) (e.extractLsb' 32 8) p1 x1 →
    err2 = slotError (e.getLsbD 2) (e.extractLsb' 40 8) (e.extractLsb' 48 8) p2 x2 →
    (e.getLsbD 0 = false →
      exec (.issueExt addr cmdId p1 p2 x1 x2) s =
        .next { s with phase := .responding, rsp := { Response.zero with code := 2, info := 0 } }) ∧
    (∀ n, e.getLsbD 0 = true → err1 = some n →
      exec (.issueExt addr cmdId p1 p2 x1 x2) s =
        .next { s with phase := .responding, rsp := { Response.zero with code := n, info := 1 } }) ∧
    (∀ n, e.getLsbD 0 = true → err1 = none → err2 = some n →
      exec (.issueExt addr cmdId p1 p2 x1 x2) s =
        .next { s with phase := .responding, rsp := { Response.zero with code := n, info := 2 } })

/-- R161: in every catalog that is not refused, an entry named GotoZeroPan is the source's, and without arguments it
gives the frame FF addr 00 07 00 16 and the checksum. -/
def Obligations.GotoZeroPanFrame : Prop :=
  ∀ (s : State) (addr id : Byte) (x1 x2 : Arg), s.cfg.wf = true → (.gotoZeroPan, id) ∈ s.cfg.names →
    Memory.read s.cfg.cat id.toNat = 0x0000160000070001#64 ∧
    exec (.issueExt addr id false false x1 x2) s =
      .next { s with
        phase := .responding
        rsp := { Response.zero with
          txLen := 7, tx := ⟨0xFF, addr, 0x00, 0x07, 0x00, 22, BitVec.ofNat 8 (addr.toNat + 0x1D)⟩ } }

/-- R163 in the reference catalog (log 6): the selector of auxiliary, zone and alarm-ack commands is 1..8; any other value
raises ArgumentOutOfRange(2). -/
def Obligations.SelectorRange : Prop :=
  ∀ (s : State) (addr id : Byte) (x v : Arg), s.cfg.cat = Config.default.cat →
    id.toNat ∈ [4, 5, 7, 8, 11] →
    ∃ t, exec (.issueExt addr id false true x v) s = .next t ∧
      (1 ≤ v.toNat ∧ v.toNat ≤ 8 → t.rsp.code = 0#4 ∧ t.rsp.tx.b5.toNat = v.toNat) ∧
      (v.toNat = 0 ∨ 9 ≤ v.toNat → t.rsp.code = 4#4 ∧ t.rsp.info = 2#4)

/-- R182: the table of the scan/camera matrix. -/
def Obligations.ScanCameraMatrix : Prop :=
  matrix none none = some (false, 0) ∧ matrix none (some .off) = some (false, 1) ∧
  matrix none (some .on) = some (true, 1) ∧ matrix (some .manual) none = some (false, 2) ∧
  matrix (some .manual) (some .off) = some (false, 3) ∧ matrix (some .manual) (some .on) = none ∧
  matrix (some .auto) none = some (true, 2) ∧ matrix (some .auto) (some .off) = none ∧
  matrix (some .auto) (some .on) = some (true, 3)

/-- R82: an intent with a field 0b11 raises ReservedEncoding with the index of the lowest such field. -/
def Obligations.ReservedIntentField : Prop :=
  ∀ (addr : Byte) (m : Intent) (psp tsp : Bool) (ps ts : Arg) (s : State) (fs : List Tri) (k : Nat),
    fs = [m.pan, m.tilt, m.iris, m.focus, m.zoom, m.scan, m.cam] →
    fs[k]? = some .reserved → (∀ j, j < k → fs[j]? ≠ some .reserved) →
    exec (.buildStd addr m psp tsp ps ts) s =
      .next { s with
        phase := .responding
        rsp := { Response.zero with code := 11, info := BitVec.ofNat 4 (k + 1) } }

/-- R183: an intent without a reserved field raises IllegalModeCombination(0) exactly for (manual, on) and (auto, off),
whatever the speeds are. -/
def Obligations.IllegalModeCombination : Prop :=
  ∀ (addr : Byte) (m : Intent) (psp tsp : Bool) (ps ts : Arg) (s t : State),
    (∀ f ∈ [m.pan, m.tilt, m.iris, m.focus, m.zoom, m.scan, m.cam], f ≠ .reserved) →
    exec (.buildStd addr m psp tsp ps ts) s = .next t →
    ((m.scan = .second ∧ m.cam = .first) ∨ (m.scan = .first ∧ m.cam = .second) ↔ t.rsp.code = 6#4) ∧
    (t.rsp.code = 6#4 → t = { s with phase := .responding, rsp := { Response.zero with code := 6, info := 0 } })

/-- R187, R188, R191: with legal fields, the pan axis is checked before the tilt axis, on each axis first that a speed
exists and then that it is legal; only the first failure is reported. -/
def Obligations.SpeedCheckOrder : Prop :=
  ∀ (addr : Byte) (m : Intent) (psp tsp : Bool) (ps ts : Arg) (s : State) (pan tilt : Option Arg),
    (∀ f ∈ [m.pan, m.tilt, m.iris, m.focus, m.zoom, m.scan, m.cam], f ≠ .reserved) →
    ¬(m.scan = .second ∧ m.cam = .first) → ¬(m.scan = .first ∧ m.cam = .second) →
    pan = (if psp then some ps else s.stickyPan.map (·.setWidth 32)) →
    tilt = (if tsp then some ts else s.stickyTilt.map (·.setWidth 32)) →
    (pan = none →
      exec (.buildStd addr m psp tsp ps ts) s =
        .next { s with phase := .responding, rsp := { Response.zero with code := 7, info := 5 } }) ∧
    (∀ p, pan = some p → 0x3F < p.toNat → p.toNat ≠ 0xFF →
      exec (.buildStd addr m psp tsp ps ts) s =
        .next { s with phase := .responding, rsp := { Response.zero with code := 7, info := 1 } }) ∧
    (∀ p, pan = some p → p.toNat ≤ 0x3F ∨ p.toNat = 0xFF → tilt = none →
      exec (.buildStd addr m psp tsp ps ts) s =
        .next { s with phase := .responding, rsp := { Response.zero with code := 7, info := 6 } }) ∧
    (∀ p q, pan = some p → p.toNat ≤ 0x3F ∨ p.toNat = 0xFF → tilt = some q → 0x3F < q.toNat → q.toNat ≠ 0xFF →
      exec (.buildStd addr m psp tsp ps ts) s =
        .next { s with phase := .responding, rsp := { Response.zero with code := 7, info := 2 } })

/-- R188: `SpeedOK` accepts 0x00..0x3F and 0xFF and nothing else; a sticky register that holds a legal speed passes. -/
def Obligations.SpeedRange : Prop :=
  (∀ v : Arg, speedOk v = true ↔ (v.toNat ≤ 0x3F ∨ v.toNat = 0xFF)) ∧
  (∀ b : Byte, stickyLegal (some b) = true → speedOk (b.setWidth 32) = true)

/-- R180, R184, R185, R186, R190, R192: BUILD_STD completes with OK when no field is 0b11, the scan/camera pair is legal and
both axes have a legal speed, given or sticky. The frame carries the two speeds as data bytes and both sticky registers
take them; each bit of cmd1 and cmd2 follows its field (the places of the iris, focus, zoom, tilt and pan bits are the
spec's from general knowledge, log 13). -/
def Obligations.BuildStdEmitsFrame : Prop :=
  ∀ (addr : Byte) (m : Intent) (psp tsp : Bool) (ps ts : Arg) (s : State) (p q : Byte),
    (∀ f ∈ [m.pan, m.tilt, m.iris, m.focus, m.zoom, m.scan, m.cam], f ≠ .reserved) →
    ¬(m.scan = .second ∧ m.cam = .first) → ¬(m.scan = .first ∧ m.cam = .second) →
    (psp = true → ps.toNat = p.toNat) → (psp = false → s.stickyPan = some p) →
    (tsp = true → ts.toNat = q.toNat) → (tsp = false → s.stickyTilt = some q) →
    (p.toNat ≤ 0x3F ∨ p.toNat = 0xFF) → (q.toNat ≤ 0x3F ∨ q.toNat = 0xFF) →
    ∃ cmd1 cmd2 : Byte,
      exec (.buildStd addr m psp tsp ps ts) s =
        .next { s with
          stickyPan := some p
          stickyTilt := some q
          phase := .responding
          rsp := { Response.zero with
            txLen := 7
            tx := ⟨0xFF, addr, cmd1, cmd2, p, q,
              BitVec.ofNat 8 (addr.toNat + cmd1.toNat + cmd2.toNat + p.toNat + q.toNat)⟩ } } ∧
      cmd1.getLsbD 7 = decide (m.scan = .first ∨ m.cam = .first) ∧ cmd1.getLsbD 6 = false ∧
      cmd1.getLsbD 5 = false ∧ cmd1.getLsbD 4 = decide (m.scan ≠ .none) ∧ cmd1.getLsbD 3 = decide (m.cam ≠ .none) ∧
      cmd1.getLsbD 2 = decide (m.iris = .second) ∧ cmd1.getLsbD 1 = decide (m.iris = .first) ∧
      cmd1.getLsbD 0 = decide (m.focus = .first) ∧
      cmd2.getLsbD 7 = decide (m.focus = .second) ∧ cmd2.getLsbD 6 = decide (m.zoom = .second) ∧
      cmd2.getLsbD 5 = decide (m.zoom = .first) ∧ cmd2.getLsbD 4 = decide (m.tilt = .second) ∧
      cmd2.getLsbD 3 = decide (m.tilt = .first) ∧ cmd2.getLsbD 2 = decide (m.pan = .first) ∧
      cmd2.getLsbD 1 = decide (m.pan = .second) ∧ cmd2.getLsbD 0 = false

/-- R190, R194: a BUILD_STD that completes with OK leaves both sticky registers at the speeds of its frame, a register
whose speed was omitted at its own value; one that raises emits no frame and changes neither. -/
def Obligations.StickyCommit : Prop :=
  ∀ (addr : Byte) (m : Intent) (psp tsp : Bool) (ps ts : Arg) (s t : State),
    exec (.buildStd addr m psp tsp ps ts) s = .next t →
    (t.rsp.code = 0#4 →
      t.stickyPan = some t.rsp.tx.b4 ∧ t.stickyTilt = some t.rsp.tx.b5 ∧
      (psp = true → t.rsp.tx.b4.toNat = ps.toNat) ∧ (psp = false → t.stickyPan = s.stickyPan) ∧
      (tsp = true → t.rsp.tx.b5.toNat = ts.toNat) ∧ (tsp = false → t.stickyTilt = s.stickyTilt)) ∧
    (t.rsp.code ≠ 0#4 → t.stickyPan = s.stickyPan ∧ t.stickyTilt = s.stickyTilt ∧ t.rsp.txLen = 0#3)

/-- R195: a BUILD_STD with all seven fields none emits the stop frame: cmd1 = cmd2 = 0x00 and the resolved speeds as data,
which are the sticky ones where a speed is omitted. -/
def Obligations.StopFrame : Prop :=
  ∀ (addr : Byte) (psp tsp : Bool) (ps ts : Arg) (s : State) (p q : Byte),
    (psp = true → ps.toNat = p.toNat) → (psp = false → s.stickyPan = some p) →
    (tsp = true → ts.toNat = q.toNat) → (tsp = false → s.stickyTilt = some q) →
    (p.toNat ≤ 0x3F ∨ p.toNat = 0xFF) → (q.toNat ≤ 0x3F ∨ q.toNat = 0xFF) →
    exec (.buildStd addr ⟨.none, .none, .none, .none, .none, .none, .none⟩ psp tsp ps ts) s =
      .next { s with
        stickyPan := some p
        stickyTilt := some q
        phase := .responding
        rsp := { Response.zero with
          txLen := 7, tx := ⟨0xFF, addr, 0x00, 0x00, p, q, BitVec.ofNat 8 (addr.toNat + p.toNat + q.toNat)⟩ } }

/-- R200: READ_SESSION, the word 0x7 alone, completes with OK, with the valid bit and the value of each sticky register, 0
where it is `Unwritten`; it changes neither. Any other word of op 0x7 raises ReservedEncoding(15). -/
def Obligations.ReadSessionReads : Prop :=
  (∀ s : State, ∃ r : Response,
    exec .readSession s = .next { s with phase := .responding, rsp := r } ∧
    (r.sPanV = true ↔ s.stickyPan ≠ none) ∧ (s.stickyPan = none → r.sPan = 0#8) ∧
    (∀ b, s.stickyPan = some b → r.sPan = b) ∧
    (r.sTiltV = true ↔ s.stickyTilt ≠ none) ∧ (s.stickyTilt = none → r.sTilt = 0#8) ∧
    (∀ b, s.stickyTilt = some b → r.sTilt = b) ∧
    r = { Response.zero with sPanV := r.sPanV, sPan := r.sPan, sTiltV := r.sTiltV, sTilt := r.sTilt }) ∧
  decode 0x7#128 = .instr .readSession ∧
  (∀ (w : ReqWord) (s : State), opField w = 0x7#4 → w ≠ 0x7#128 →
    runRequest w s = .next { s with rsp := { Response.zero with code := 11, info := 15 }, phase := .responding })

/-- R29, R288: a request in flight gets its response after as many edges as its latency has left, if none of them is a
reset, and it is the response of the operation run on the state at acceptance. -/
def Obligations.EveryAcceptedRequestIsAnswered : Prop :=
  ∀ (s : State) (w : ReqWord) (left : Nat), Ready s → s.phase = .inFlight w left → 1 ≤ left →
    (∀ p ∈ s.inputs.take left, p.rst = false) →
    ∃ t : State, Sys2Proof.core.run left s = .next t ∧ t.rspValid = true ∧
      runRequest w { s with inputs := s.inputs.drop left } = .next t

/-- R29, R58, for every latency: the edges of one request, from its acceptance through the free number of waiting edges to
the consumption of its response, do what the request does as one transaction. That the two last states agree also in the
response record, while `rsp_valid` = 0, is the model's choice (log 4). -/
def Obligations.EdgesRefineTransaction : Prop :=
  ∀ (s : State) (p c : Pins) (waits rest : List Pins), Ready s → s.phase = .idle →
    s.inputs = p :: (waits ++ c :: rest) → p.rst = false → p.reqValid = true →
    waits.length = Config.latency s.accepted → (∀ q ∈ waits, q.rst = false) → c.rst = false → c.rspReady = true →
    Sys2Proof.core.run (waits.length + 2) s = transact p.reqWord { s with inputs := rest }

/-- R22, R262, R264: a program of n requests gets n responses, in any state, and moves the request index on by n; the
configuration is as it was. -/
def Obligations.OneResponsePerRequest : Prop :=
  ∀ (ws : List ReqWord) (s : State),
    (runProgram ws s).1.length = ws.length ∧ (runProgram ws s).2.reqIndex = s.reqIndex + ws.length ∧
    (runProgram ws s).2.cfg = s.cfg

/-- R24, R58: the sticky registers carry the only state from one request to another: over any sequence of requests without a
BUILD_STD they keep their values, and two states that agree on configuration and sticky registers give the same responses. -/
def Obligations.OnlySpeedsPassBetweenRequests : Prop :=
  (∀ (ws : List ReqWord) (s : State), (∀ w ∈ ws, opField w ≠ 0x3#4) →
    (runProgram ws s).2.stickyPan = s.stickyPan ∧ (runProgram ws s).2.stickyTilt = s.stickyTilt) ∧
  (∀ (ws : List ReqWord) (s s' : State), s.cfg = s'.cfg → s.stickyPan = s'.stickyPan →
    s.stickyTilt = s'.stickyTilt → (runProgram ws s).1 = (runProgram ws s').1)

/-- R96, R97, R81: the request each line stands for. A format R, X, S, D or N line gives its operation, address, present
bits, values, intent, byte count and bytes; a pseudo-instruction is the line it expands to; what assembles is
well-formed. That more than 7 bytes or a name the catalog does not hold give no request is the model's (log 18), and so
is that a name listed at several ids stands for the first (log 24). -/
def Obligations.AssemblerIsFaithful : Prop :=
  ∀ c : Config,
    (∀ a c1 c2 d1 d2, asksFor c (.encode a c1 c2 d1 d2) (.encode a c1 c2 d1 d2)) ∧
    (∀ (a : Byte) (id : ExtId) (k : Byte) (x1 x2 : Option Arg), (id = .num k ∨ ∃ op, id = .name op ∧ c.idOf op = some k) →
      ∃ v1 v2, asksFor c (.ext a id x1 x2) (.issueExt a k x1.isSome x2.isSome v1 v2) ∧
        (∀ v, x1 = some v → v1 = v) ∧ (∀ v, x2 = some v → v2 = v)) ∧
    (∀ (a : Byte) (op : CatalogOp) (x1 x2 : Option Arg), c.idOf op = none → asmWord c (.ext a (.name op) x1 x2) = none) ∧
    (∀ (a : Byte) (mo : Motion) (ps ts : Option Arg),
      ∃ m v1 v2, asksFor c (.std a mo ps ts) (.buildStd a m ps.isSome ts.isSome v1 v2) ∧
        (∀ v, ps = some v → v1 = v) ∧ (∀ v, ts = some v → v2 = v) ∧ readIntent m = .ok mo ∧
        m.pan = (match mo.pan with | none => .none | some .left => .first | some .right => .second) ∧
        m.tilt = (match mo.tilt with | none => .none | some .up => .first | some .down => .second) ∧
        m.iris = (match mo.iris with | none => .none | some .opening => .first | some .closing => .second) ∧
        m.focus = (match mo.focus with | none => .none | some .near => .first | some .far => .second) ∧
        m.zoom = (match mo.zoom with | none => .none | some .zoomIn => .first | some .zoomOut => .second) ∧
        m.scan = (match mo.scan with | none => .none | some .auto => .first | some .manual => .second) ∧
        m.cam = (match mo.cam with | none => .none | some .on => .first | some .off => .second)) ∧
    (∀ bs : List Byte, bs.length ≤ 7 → ∃ rx, (∀ k b, bs[k]? = some b → byteAt rx k = b) ∧
      asksFor c (.dcmd bs) (.decodeCmd bs.length rx) ∧ asksFor c (.dstat bs) (.decodeStatus bs.length rx) ∧
      asksFor c (.dquery bs) (.decodeQuery bs.length rx)) ∧
    (∀ bs : List Byte, 7 < bs.length →
      asmWord c (.dcmd bs) = none ∧ asmWord c (.dstat bs) = none ∧ asmWord c (.dquery bs) = none) ∧
    asksFor c .rdsess .readSession ∧
    (∀ a, asmWord c (.stop a) = asmWord c (.std a ⟨none, none, none, none, none, none, none⟩ none none)) ∧
    (∀ a d v, asmWord c (.move a (.pan d) v) =
      asmWord c (.std a ⟨some d, none, none, none, none, none, none⟩ (some v) none)) ∧
    (∀ a d v, asmWord c (.move a (.tilt d) v) =
      asmWord c (.std a ⟨none, some d, none, none, none, none, none⟩ none (some v))) ∧
    (∀ a, asmWord c (.camon a) = asmWord c (.std a ⟨none, none, none, none, none, none, some .on⟩ none none)) ∧
    (∀ a, asmWord c (.camoff a) = asmWord c (.std a ⟨none, none, none, none, none, none, some .off⟩ none none)) ∧
    (∀ a p, asmWord c (.goto a p) = asmWord c (.ext a (.name .callPreset) none (some p))) ∧
    (∀ a, asmWord c (.zeropan a) = asmWord c (.ext a (.name .gotoZeroPan) none none)) ∧
    (∀ l i, assemble c l = some i → i.wf = true)

/-- R162, R284: a configuration that is ready to boot has a valid entry for each required operation, under an id that names
no other of them. Which entries stand for the paired parameters, and that the first pair listed with a name counts, is
the model's choice (log 16, 24). -/
def Obligations.BootReadyHoldsEveryOperation : Prop :=
  ∀ c : Config, c.bootReady = true → ∀ op ∈ requiredOps,
    ∃ id : Byte, (op, id) ∈ c.names ∧ (Memory.read c.cat id.toNat).getLsbD 0 = true ∧
      ∀ op' ∈ requiredOps, c.idOf op' = some id → op' = op
end

