-- ==== Sys2Proof/Laws/Codec.lean ====
section
/-! SUPPORT. Reading a field out of an encoded request word: a field above the low part of an append is a field of the
high part, and the low part itself reads back. -/

namespace Sys2Proof

/-- A field that starts above the low part. -/
theorem extract_append_high {n m : Nat} (x : BitVec n) (y : BitVec m) (lo len : Nat) (h : m ≤ lo) :
    (x ++ y).extractLsb' lo len = x.extractLsb' (lo - m) len := by
  apply BitVec.eq_of_getLsbD_eq
  intro k hk
  have : ¬(lo + k < m) := by omega
  simp only [BitVec.getLsbD_extractLsb', BitVec.getLsbD_append, this, if_false]
  congr 2
  omega

/-- The low part. -/
theorem extract_append_low {n m : Nat} (x : BitVec n) (y : BitVec m) : (x ++ y).extractLsb' 0 m = y := by
  apply BitVec.eq_of_getLsbD_eq
  intro k hk
  simp only [BitVec.getLsbD_extractLsb', BitVec.getLsbD_append, Nat.zero_add, hk, if_true, decide_true, Bool.true_and]

/-- A bit above the low part. -/
theorem getLsbD_append_high {n m : Nat} (x : BitVec n) (y : BitVec m) (k : Nat) (h : m ≤ k) :
    (x ++ y).getLsbD k = x.getLsbD (k - m) := by
  rw [BitVec.getLsbD_append, if_neg (by omega)]

/-- A one-bit low part. -/
theorem getLsbD_append_ofBool {n : Nat} (x : BitVec n) (b : Bool) : (x ++ BitVec.ofBool b).getLsbD 0 = b := by
  rw [BitVec.getLsbD_append, if_pos (by omega)]
  cases b <;> rfl

/-- A field within the low part. -/
theorem extract_append_within {n m : Nat} (x : BitVec n) (y : BitVec m) (lo len : Nat) (h : lo + len ≤ m) :
    (x ++ y).extractLsb' lo len = y.extractLsb' lo len := by
  apply BitVec.eq_of_getLsbD_eq
  intro k hk
  simp only [BitVec.getLsbD_extractLsb']
  rw [BitVec.getLsbD_append, if_pos (by omega)]

/-- Two adjacent fields of a word make one field. -/
theorem extract_glue {N : Nat} (w : BitVec N) (lo mid len len' : Nat) (h : lo + len' = mid) :
    w.extractLsb' mid len ++ w.extractLsb' lo len' = w.extractLsb' lo (len + len') := by
  subst h
  apply BitVec.eq_of_getLsbD_eq
  intro k hk
  rw [BitVec.getLsbD_append]
  simp only [BitVec.getLsbD_extractLsb']
  split
  · simp_all
  · have h1 : k - len' < len := by omega
    have h2 : lo + len' + (k - len') = lo + k := by omega
    simp [h1, h2, hk]

/-- A present bit as a one-bit field. -/
theorem ofBool_getLsbD {N : Nat} (w : BitVec N) (k : Nat) : BitVec.ofBool (w.getLsbD k) = w.extractLsb' k 1 := by
  apply BitVec.eq_of_getLsbD_eq
  intro j hj
  obtain rfl : j = 0 := by omega
  simp

/-- The two bits of a tri-state reads back (R80). -/
theorem triOfBits_triBits (t : Tri) : triOfBits (triBits t) = t := by cases t <;> rfl

theorem triBits_triOfBits (b : BitVec 2) : triBits (triOfBits b) = b := by
  revert b
  decide

end Sys2Proof
end

