-- ==== Sys2Proof/Laws/State.lean ====
section
/-! SUPPORT. What each state update leaves in each field: one lemma per field per update. -/

namespace Sys2Proof.Machine

@[simp] theorem State.respond_cfg (s : State) (r : Response) : (s.respond r).cfg = s.cfg := rfl
@[simp] theorem State.respond_stickyPan (s : State) (r : Response) : (s.respond r).stickyPan = s.stickyPan := rfl
@[simp] theorem State.respond_stickyTilt (s : State) (r : Response) : (s.respond r).stickyTilt = s.stickyTilt := rfl
@[simp] theorem State.respond_rsp (s : State) (r : Response) : (s.respond r).rsp = r := rfl
@[simp] theorem State.respond_phase (s : State) (r : Response) : (s.respond r).phase = .responding := rfl
@[simp] theorem State.respond_resetSeen (s : State) (r : Response) : (s.respond r).resetSeen = s.resetSeen := rfl
@[simp] theorem State.respond_reqIndex (s : State) (r : Response) : (s.respond r).reqIndex = s.reqIndex := rfl
@[simp] theorem State.respond_accepted (s : State) (r : Response) : (s.respond r).accepted = s.accepted := rfl
@[simp] theorem State.respond_inputs (s : State) (r : Response) : (s.respond r).inputs = s.inputs := rfl

@[simp] theorem State.commitSpeeds_cfg (s : State) (p t : Byte) : (s.commitSpeeds p t).cfg = s.cfg := rfl
@[simp] theorem State.commitSpeeds_stickyPan (s : State) (p t : Byte) : (s.commitSpeeds p t).stickyPan = some p := rfl
@[simp] theorem State.commitSpeeds_stickyTilt (s : State) (p t : Byte) : (s.commitSpeeds p t).stickyTilt = some t := rfl
@[simp] theorem State.commitSpeeds_rsp (s : State) (p t : Byte) : (s.commitSpeeds p t).rsp = s.rsp := rfl
@[simp] theorem State.commitSpeeds_phase (s : State) (p t : Byte) : (s.commitSpeeds p t).phase = s.phase := rfl
@[simp] theorem State.commitSpeeds_resetSeen (s : State) (p t : Byte) : (s.commitSpeeds p t).resetSeen = s.resetSeen := rfl
@[simp] theorem State.commitSpeeds_reqIndex (s : State) (p t : Byte) : (s.commitSpeeds p t).reqIndex = s.reqIndex := rfl
@[simp] theorem State.commitSpeeds_accepted (s : State) (p t : Byte) : (s.commitSpeeds p t).accepted = s.accepted := rfl
@[simp] theorem State.commitSpeeds_inputs (s : State) (p t : Byte) : (s.commitSpeeds p t).inputs = s.inputs := rfl

@[simp] theorem State.tick_cfg (s : State) : (s.tick).cfg = s.cfg := rfl
@[simp] theorem State.tick_stickyPan (s : State) : (s.tick).stickyPan = s.stickyPan := rfl
@[simp] theorem State.tick_stickyTilt (s : State) : (s.tick).stickyTilt = s.stickyTilt := rfl
@[simp] theorem State.tick_rsp (s : State) : (s.tick).rsp = s.rsp := rfl
@[simp] theorem State.tick_phase (s : State) : (s.tick).phase = s.phase := rfl
@[simp] theorem State.tick_resetSeen (s : State) : (s.tick).resetSeen = s.resetSeen := rfl
@[simp] theorem State.tick_reqIndex (s : State) : (s.tick).reqIndex = s.reqIndex := rfl
@[simp] theorem State.tick_accepted (s : State) : (s.tick).accepted = s.accepted := rfl
@[simp] theorem State.tick_inputs (s : State) : (s.tick).inputs = s.inputs.tail := rfl

@[simp] theorem State.applyReset_cfg (s : State) : (s.applyReset).cfg = s.cfg := rfl
@[simp] theorem State.applyReset_stickyPan (s : State) : (s.applyReset).stickyPan = s.cfg.stickyResetPan := rfl
@[simp] theorem State.applyReset_stickyTilt (s : State) : (s.applyReset).stickyTilt = s.cfg.stickyResetTilt := rfl
@[simp] theorem State.applyReset_rsp (s : State) : (s.applyReset).rsp = Response.zero := rfl
@[simp] theorem State.applyReset_phase (s : State) : (s.applyReset).phase = .idle := rfl
@[simp] theorem State.applyReset_resetSeen (s : State) : (s.applyReset).resetSeen = true := rfl
@[simp] theorem State.applyReset_reqIndex (s : State) : (s.applyReset).reqIndex = s.reqIndex := rfl
@[simp] theorem State.applyReset_accepted (s : State) : (s.applyReset).accepted = s.accepted := rfl
@[simp] theorem State.applyReset_inputs (s : State) : (s.applyReset).inputs = s.inputs := rfl

@[simp] theorem State.accept_cfg (s : State) (w : ReqWord) : (s.accept w).cfg = s.cfg := rfl
@[simp] theorem State.accept_stickyPan (s : State) (w : ReqWord) : (s.accept w).stickyPan = s.stickyPan := rfl
@[simp] theorem State.accept_stickyTilt (s : State) (w : ReqWord) : (s.accept w).stickyTilt = s.stickyTilt := rfl
@[simp] theorem State.accept_rsp (s : State) (w : ReqWord) : (s.accept w).rsp = s.rsp := rfl
@[simp] theorem State.accept_phase (s : State) (w : ReqWord) : (s.accept w).phase = .inFlight w (Config.latency s.accepted) := rfl
@[simp] theorem State.accept_resetSeen (s : State) (w : ReqWord) : (s.accept w).resetSeen = s.resetSeen := rfl
@[simp] theorem State.accept_reqIndex (s : State) (w : ReqWord) : (s.accept w).reqIndex = s.reqIndex := rfl
@[simp] theorem State.accept_accepted (s : State) (w : ReqWord) : (s.accept w).accepted = s.accepted + 1 := rfl
@[simp] theorem State.accept_inputs (s : State) (w : ReqWord) : (s.accept w).inputs = s.inputs := rfl

@[simp] theorem State.wait_cfg (s : State) (w : ReqWord) (left : Nat) : (s.wait w left).cfg = s.cfg := rfl
@[simp] theorem State.wait_stickyPan (s : State) (w : ReqWord) (left : Nat) : (s.wait w left).stickyPan = s.stickyPan := rfl
@[simp] theorem State.wait_stickyTilt (s : State) (w : ReqWord) (left : Nat) : (s.wait w left).stickyTilt = s.stickyTilt := rfl
@[simp] theorem State.wait_rsp (s : State) (w : ReqWord) (left : Nat) : (s.wait w left).rsp = s.rsp := rfl
@[simp] theorem State.wait_phase (s : State) (w : ReqWord) (left : Nat) : (s.wait w left).phase = .inFlight w left := rfl
@[simp] theorem State.wait_resetSeen (s : State) (w : ReqWord) (left : Nat) : (s.wait w left).resetSeen = s.resetSeen := rfl
@[simp] theorem State.wait_reqIndex (s : State) (w : ReqWord) (left : Nat) : (s.wait w left).reqIndex = s.reqIndex := rfl
@[simp] theorem State.wait_accepted (s : State) (w : ReqWord) (left : Nat) : (s.wait w left).accepted = s.accepted := rfl
@[simp] theorem State.wait_inputs (s : State) (w : ReqWord) (left : Nat) : (s.wait w left).inputs = s.inputs := rfl

@[simp] theorem State.consume_cfg (s : State) : (s.consume).cfg = s.cfg := rfl
@[simp] theorem State.consume_stickyPan (s : State) : (s.consume).stickyPan = s.stickyPan := rfl
@[simp] theorem State.consume_stickyTilt (s : State) : (s.consume).stickyTilt = s.stickyTilt := rfl
@[simp] theorem State.consume_rsp (s : State) : (s.consume).rsp = s.rsp := rfl
@[simp] theorem State.consume_phase (s : State) : (s.consume).phase = .idle := rfl
@[simp] theorem State.consume_resetSeen (s : State) : (s.consume).resetSeen = s.resetSeen := rfl
@[simp] theorem State.consume_reqIndex (s : State) : (s.consume).reqIndex = s.reqIndex + 1 := rfl
@[simp] theorem State.consume_accepted (s : State) : (s.consume).accepted = s.accepted := rfl
@[simp] theorem State.consume_inputs (s : State) : (s.consume).inputs = s.inputs := rfl

@[simp] theorem State.withFetchWord_cfg (s : State) (nbits w : Nat) : (s.withFetchWord nbits w).cfg = s.cfg := rfl
@[simp] theorem State.withFetchWord_stickyPan (s : State) (nbits w : Nat) : (s.withFetchWord nbits w).stickyPan = s.stickyPan := rfl
@[simp] theorem State.withFetchWord_stickyTilt (s : State) (nbits w : Nat) : (s.withFetchWord nbits w).stickyTilt = s.stickyTilt := rfl
@[simp] theorem State.withFetchWord_rsp (s : State) (nbits w : Nat) : (s.withFetchWord nbits w).rsp = s.rsp := rfl
@[simp] theorem State.withFetchWord_phase (s : State) (nbits w : Nat) : (s.withFetchWord nbits w).phase = .inFlight (tableWord nbits w) 1 := rfl
@[simp] theorem State.withFetchWord_resetSeen (s : State) (nbits w : Nat) : (s.withFetchWord nbits w).resetSeen = true := rfl
@[simp] theorem State.withFetchWord_reqIndex (s : State) (nbits w : Nat) : (s.withFetchWord nbits w).reqIndex = s.reqIndex := rfl
@[simp] theorem State.withFetchWord_accepted (s : State) (nbits w : Nat) : (s.withFetchWord nbits w).accepted = s.accepted := rfl
@[simp] theorem State.withFetchWord_inputs (s : State) (nbits w : Nat) : (s.withFetchWord nbits w).inputs = Pins.quiet :: s.inputs := rfl

@[simp] theorem State.busy_idle (s : State) (h : s.phase = .idle) : s.busy = false := by simp [State.busy, h]
@[simp] theorem State.rspValid_idle (s : State) (h : s.phase = .idle) : s.rspValid = false := by simp [State.rspValid, h]
@[simp] theorem State.busy_inFlight (s : State) (w : ReqWord) (n : Nat) (h : s.phase = .inFlight w n) :
    s.busy = true := by simp [State.busy, h]
@[simp] theorem State.rspValid_inFlight (s : State) (w : ReqWord) (n : Nat) (h : s.phase = .inFlight w n) :
    s.rspValid = false := by simp [State.rspValid, h]
@[simp] theorem State.busy_responding (s : State) (h : s.phase = .responding) : s.busy = true := by
  simp [State.busy, h]
@[simp] theorem State.rspValid_responding (s : State) (h : s.phase = .responding) : s.rspValid = true := by
  simp [State.rspValid, h]

end Sys2Proof.Machine
end

