-- ==== Sys2Proof/Laws/Ops.lean ====
section
/-! SUPPORT. What each shared operation can do, said once: the ends of an operation, the frame validator, the argument,
speed and intent readers, and one rising edge. -/

namespace Sys2Proof.Machine

theorem finish_next (c : ResultCode) (r : Response) (s t : State) :
    finish c r s = .next t ↔ t = s.respond { r with code := codeBits c, info := 0 } := by
  simp only [finish, Host.Outcome.next.injEq]
  exact ⟨Eq.symm, Eq.symm⟩

theorem raise_next (c : ResultCode) (info : BitVec 4) (s t : State) :
    raise c info s = .next t ↔ t = s.respond { Response.zero with code := codeBits c, info := info } := by
  simp only [raise, Host.Outcome.next.injEq]
  exact ⟨Eq.symm, Eq.symm⟩

/-- `Sum8` of one byte more (R10). -/
theorem sum8_cons (b : Byte) (bs : List Byte) : sum8 (b :: bs) = b + sum8 bs := by
  simp [sum8, BitVec.ofNat_add]

theorem sum8_nil : sum8 [] = 0 := rfl

/-- Each outcome of the frame validator and when it comes (R112). -/
theorem checkFrame_cases (len n : Nat) (rx : Bytes7) :
    (n = 0 ∧ checkFrame len n rx = .noReply) ∨
    (n ≠ 0 ∧ n < len ∧ checkFrame len n rx = .error .framingError 1) ∨
    (n ≠ 0 ∧ len < n ∧ checkFrame len n rx = .error .framingError 2) ∨
    (n ≠ 0 ∧ n = len ∧ byteAt rx 0 ≠ 0xFF#8 ∧ checkFrame len n rx = .error .framingError 3) ∨
    (n ≠ 0 ∧ n = len ∧ byteAt rx 0 = 0xFF#8 ∧ sum8 (bytesFrom rx 1 (len - 2)) ≠ byteAt rx (len - 1) ∧
      checkFrame len n rx = .error .checksumError 0) ∨
    (n ≠ 0 ∧ n = len ∧ byteAt rx 0 = 0xFF#8 ∧ sum8 (bytesFrom rx 1 (len - 2)) = byteAt rx (len - 1) ∧
      checkFrame len n rx = .valid) := by
  unfold checkFrame
  split_ifs with h0 h1 h2 h3 h4
  · exact .inl ⟨h0, rfl⟩
  · exact .inr (.inl ⟨h0, h1, rfl⟩)
  · exact .inr (.inr (.inl ⟨h0, h2, rfl⟩))
  · exact .inr (.inr (.inr (.inl ⟨h0, by omega, h3, rfl⟩)))
  · exact .inr (.inr (.inr (.inr (.inl ⟨h0, by omega, not_not.mp h3, h4, rfl⟩))))
  · exact .inr (.inr (.inr (.inr (.inr ⟨h0, by omega, not_not.mp h3, not_not.mp h4, rfl⟩))))

/-- A decode operation always answers, with the response its check decides (R112). -/
theorem decodeFrame_next (len n : Nat) (rx : Bytes7) (fields : Response) (s t : State)
    (h : decodeFrame len n rx fields s = .next t) :
    (checkFrame len n rx = .valid ∧ t = s.respond { fields with code := 0, info := 0 }) ∨
    (checkFrame len n rx = .noReply ∧ t = s.respond { Response.zero with code := 1, info := 0 }) ∨
    (∃ c info, checkFrame len n rx = .error c info ∧
      t = s.respond { Response.zero with code := codeBits c, info := info }) := by
  unfold decodeFrame at h
  split at h <;> rename_i hc
  · exact .inl ⟨hc, (finish_next _ _ _ _).mp h⟩
  · exact .inr (.inl ⟨hc, (finish_next _ _ _ _).mp h⟩)
  · exact .inr (.inr ⟨_, _, hc, (raise_next _ _ _ _).mp h⟩)

/-- The error codes of `ValidateArg` (R142). -/
theorem validateArg_error (spec : ArgSpec) (p : Bool) (v : Arg) (c : ResultCode)
    (h : validateArg spec p v = .error c) :
    c = .argumentMismatch ∨ c = .missingArgument ∨ c = .argumentOutOfRange := by
  unfold validateArg at h
  split at h <;> split_ifs at h <;> simp_all

/-- A resolved speed is a legal one, taken from the request or from the sticky register (R186, R188). -/
theorem resolveSpeed_ok (p : Bool) (v : Arg) (sticky : Option Byte) (e1 e2 : BitVec 4) (b : Byte)
    (h : resolveSpeed p v sticky e1 e2 = .ok b) :
    ∃ u : Arg, (if p then some v else sticky.map (·.setWidth 32)) = some u ∧ speedOk u = true ∧
      b = u.extractLsb' 0 8 := by
  unfold resolveSpeed at h
  split at h
  · cases h
  · rename_i u hu
    split_ifs at h with hs
    · exact ⟨u, hu, hs, by simpa using h.symm⟩

/-- The infos of a speed that cannot be resolved (R187, R188). -/
theorem resolveSpeed_error (p : Bool) (v : Arg) (sticky : Option Byte) (e1 e2 e : BitVec 4)
    (h : resolveSpeed p v sticky e1 e2 = .error e) : e = e1 ∨ e = e2 := by
  unfold resolveSpeed at h
  split at h
  · exact .inl (by simpa using h.symm)
  · split_ifs at h
    exact .inr (by simpa using h.symm)

/-- `SpeedOK` as a bound on the number (R188). -/
theorem speedOk_iff (v : Arg) : speedOk v = true ↔ v.toNat = 0xFF ∨ v.toNat ≤ 0x3F := by
  simp only [speedOk, Bool.or_eq_true, decide_eq_true_eq, BitVec.le_def, BitVec.toNat_eq]
  rfl

/-- What a rising edge that answers has done. -/
theorem risingEdge_cases (p : Pins) (s t : State) (h : risingEdge p s = .next t) :
    (p.rst = true ∧ t = s.applyReset) ∨
    (p.rst = false ∧ s.resetSeen = true ∧
      ((s.phase = .idle ∧ p.reqValid = true ∧ t = s.accept p.reqWord) ∨
       (s.phase = .idle ∧ p.reqValid = false ∧ t = s) ∨
       (∃ w left, s.phase = .inFlight w left ∧ left ≤ 1 ∧ runRequest w s = .next t) ∨
       (∃ w left, s.phase = .inFlight w left ∧ 1 < left ∧ t = s.wait w (left - 1)) ∨
       (s.phase = .responding ∧ p.rspReady = true ∧ t = s.consume) ∨
       (s.phase = .responding ∧ p.rspReady = false ∧ t = s))) := by
  unfold risingEdge at h
  split_ifs at h with hr hs
  · exact .inl ⟨hr, by simpa using h.symm⟩
  · refine .inr ⟨by simpa using hr, by simpa using hs, ?_⟩
    unfold clockEdge at h
    split at h <;> rename_i hp
    · split_ifs at h with hv
      · exact .inl ⟨hp, hv, by simpa using h.symm⟩
      · exact .inr (.inl ⟨hp, by simpa using hv, by simpa using h.symm⟩)
    · split_ifs at h with hl
      · exact .inr (.inr (.inl ⟨_, _, hp, hl, h⟩))
      · exact .inr (.inr (.inr (.inl ⟨_, _, hp, by omega, by simpa using h.symm⟩)))
    · split_ifs at h with hv
      · exact .inr (.inr (.inr (.inr (.inl ⟨hp, hv, by simpa using h.symm⟩))))
      · exact .inr (.inr (.inr (.inr (.inr ⟨hp, by simpa using hv, by simpa using h.symm⟩))))

/-- A step that answers is a rising edge in a configuration that is not refused. -/
theorem step_next (s t : State) (h : step s = .next t) :
    s.cfg.wf = true ∧ risingEdge s.pins s.tick = .next t := by
  unfold step at h
  split_ifs at h with hc
  exact ⟨hc, h⟩

end Sys2Proof.Machine
end

