-- ==== Sys2Proof/Laws/PerInstr.lean ====
section
/-! SUPPORT. Statements about every instruction as syntax, one lemma per constructor: the operation field of its request
word is the op value of R70. -/

namespace Sys2Proof.Laws.OpFieldIs

/-- The op value of each operation (R70). -/
def opValue : Instr → BitVec 4
  | .encode _ _ _ _ _ => 0x1
  | .issueExt _ _ _ _ _ _ => 0x2
  | .buildStd _ _ _ _ _ _ => 0x3
  | .decodeCmd _ _ => 0x4
  | .decodeStatus _ _ => 0x5
  | .decodeQuery _ _ => 0x6
  | .readSession => 0x7

/-- `REQ[3:0]` of the encoding selects the operation (R70). -/
def Statement (i : Instr) : Prop := opField (Sys2Proof.encode i) = opValue i

/-- The low bits of an append are those of its low part. -/
theorem opField_append (x : BitVec 124) (op : BitVec 4) : opField (x ++ op) = op := by
  apply BitVec.eq_of_getLsbD_eq
  intro k hk
  simp only [opField, BitVec.getLsbD_extractLsb', hk, decide_true, Bool.true_and, Nat.zero_add]
  rw [BitVec.getLsbD_append, if_pos hk]

theorem encode (a c1 c2 d1 d2 : Byte) : Statement (.encode a c1 c2 d1 d2) := opField_append _ _
theorem issueExt (a k : Byte) (p1 p2 : Bool) (x1 x2 : Arg) : Statement (.issueExt a k p1 p2 x1 x2) :=
  opField_append _ _
theorem buildStd (a : Byte) (m : Intent) (p1 p2 : Bool) (x1 x2 : Arg) : Statement (.buildStd a m p1 p2 x1 x2) :=
  opField_append _ _
theorem decodeCmd (n : Nat) (rx : Bytes7) : Statement (.decodeCmd n rx) := opField_append _ _
theorem decodeStatus (n : Nat) (rx : Bytes7) : Statement (.decodeStatus n rx) := opField_append _ _
theorem decodeQuery (n : Nat) (rx : Bytes7) : Statement (.decodeQuery n rx) := opField_append _ _
theorem readSession : Statement .readSession := opField_append _ _

end Sys2Proof.Laws.OpFieldIs
end

