-- ==== Sys2Proof/Laws/Meanings.lean ====
section
/-! SUPPORT. What the meanings can do, said once: the inversion of reading an intent, of ISSUE_EXT and BUILD_STD, and the
shapes of the state after any operation. -/

namespace Sys2Proof.Machine

theorem readTri_error {α : Type} (k e : BitVec 4) (a b : α) (t : Tri) (h : readTri k a b t = .error e) :
    e = k ∧ t = .reserved := by
  cases t <;> simp_all [readTri]

theorem readTri_ok {α : Type} (k : BitVec 4) (a b : α) (t : Tri) (x : Option α) (h : readTri k a b t = .ok x) :
    (t = .none ∧ x = none) ∨ (t = .first ∧ x = some a) ∨ (t = .second ∧ x = some b) := by
  cases t <;> simp_all [readTri]

/-- An intent that reads is read field by field (R81). -/
theorem readIntent_ok (m : Intent) (mo : Motion) (h : readIntent m = .ok mo) :
    readTri 1 PanDir.left PanDir.right m.pan = .ok mo.pan ∧
    readTri 2 TiltDir.up TiltDir.down m.tilt = .ok mo.tilt ∧
    readTri 3 IrisDir.opening IrisDir.closing m.iris = .ok mo.iris ∧
    readTri 4 FocusDir.near FocusDir.far m.focus = .ok mo.focus ∧
    readTri 5 ZoomDir.zoomIn ZoomDir.zoomOut m.zoom = .ok mo.zoom ∧
    readTri 6 ScanMode.auto ScanMode.manual m.scan = .ok mo.scan ∧
    readTri 7 CamState.on CamState.off m.cam = .ok mo.cam := by
  simp only [readIntent, bind, Except.bind, pure, Except.pure] at h
  repeat' split at h
  all_goals first | cases h; done | skip
  cases h
  refine ⟨?_, ?_, ?_, ?_, ?_, ?_, ?_⟩ <;> assumption

/-- An intent that does not read gives the index of a field that holds 0b11, every field before it being readable (R82). -/
theorem readIntent_error (m : Intent) (e : BitVec 4) (h : readIntent m = .error e) :
    (e = 1 ∧ m.pan = .reserved) ∨ (e = 2 ∧ m.tilt = .reserved) ∨ (e = 3 ∧ m.iris = .reserved) ∨
    (e = 4 ∧ m.focus = .reserved) ∨ (e = 5 ∧ m.zoom = .reserved) ∨ (e = 6 ∧ m.scan = .reserved) ∨
    (e = 7 ∧ m.cam = .reserved) := by
  simp only [readIntent, bind, Except.bind, pure, Except.pure] at h
  repeat' split at h
  all_goals first
    | (cases h; have := readTri_error _ _ _ _ _ (by assumption); simp [this])
    | cases h

/-- An intent without the code 0b11 reads. -/
theorem readIntent_of_legal (m : Intent)
    (h : ∀ f ∈ [m.pan, m.tilt, m.iris, m.focus, m.zoom, m.scan, m.cam], f ≠ .reserved) :
    ∃ mo, readIntent m = .ok mo := by
  cases hr : readIntent m with
  | ok mo => exact ⟨mo, rfl⟩
  | error e =>
    simp only [List.mem_cons, List.not_mem_nil, or_false, forall_eq_or_imp, forall_eq] at h
    have := readIntent_error m e hr
    tauto

/-- The five ways ISSUE_EXT goes (R140). -/
theorem execIssueExt_cases (addr id : Byte) (p1 p2 : Bool) (x1 x2 : Arg) (s : State) :
    ((entryAt s id).valid = false ∧ execIssueExt addr id p1 p2 x1 x2 s = raise .unknownCommand 0 s) ∨
    (∃ c, (entryAt s id).valid = true ∧ validateArg (entryAt s id).slot1 p1 x1 = .error c ∧
      execIssueExt addr id p1 p2 x1 x2 s = raise c 1 s) ∨
    (∃ r c, (entryAt s id).valid = true ∧ validateArg (entryAt s id).slot1 p1 x1 = .ok r ∧
      validateArg (entryAt s id).slot2 p2 x2 = .error c ∧ execIssueExt addr id p1 p2 x1 x2 s = raise c 2 s) ∨
    (∃ r q, (entryAt s id).valid = true ∧ validateArg (entryAt s id).slot1 p1 x1 = .ok r ∧
      validateArg (entryAt s id).slot2 p2 x2 = .ok q ∧
      execIssueExt addr id p1 p2 x1 x2 s =
        finish .ok (emitFrame addr (entryAt s id).word3 (entryAt s id).word4 r q) s) := by
  unfold execIssueExt
  cases hv : (entryAt s id).valid
  · exact .inl ⟨rfl, by simp⟩
  · cases h1 : validateArg (entryAt s id).slot1 p1 x1 with
    | error c => exact .inr (.inl ⟨c, rfl, rfl, by simp⟩)
    | ok r =>
      cases h2 : validateArg (entryAt s id).slot2 p2 x2 with
      | error c => exact .inr (.inr (.inl ⟨r, c, rfl, rfl, rfl, by simp⟩))
      | ok q => exact .inr (.inr (.inr ⟨r, q, rfl, rfl, rfl, by simp⟩))

/-- The five ways BUILD_STD goes, in the order of R191. -/
theorem execBuildStd_cases (addr : Byte) (m : Intent) (psp tsp : Bool) (ps ts : Arg) (s : State) :
    (∃ k, readIntent m = .error k ∧ execBuildStd addr m psp tsp ps ts s = raise .reservedEncoding k s) ∨
    (∃ mo, readIntent m = .ok mo ∧ matrix mo.scan mo.cam = none ∧
      execBuildStd addr m psp tsp ps ts s = raise .illegalModeCombination 0 s) ∨
    (∃ mo x i, readIntent m = .ok mo ∧ matrix mo.scan mo.cam = some x ∧
      resolveSpeed psp ps s.stickyPan 5 1 = .error i ∧
      execBuildStd addr m psp tsp ps ts s = raise .invalidSpeed i s) ∨
    (∃ mo x p i, readIntent m = .ok mo ∧ matrix mo.scan mo.cam = some x ∧
      resolveSpeed psp ps s.stickyPan 5 1 = .ok p ∧ resolveSpeed tsp ts s.stickyTilt 6 2 = .error i ∧
      execBuildStd addr m psp tsp ps ts s = raise .invalidSpeed i s) ∨
    (∃ mo x p t, readIntent m = .ok mo ∧ matrix mo.scan mo.cam = some x ∧
      resolveSpeed psp ps s.stickyPan 5 1 = .ok p ∧ resolveSpeed tsp ts s.stickyTilt 6 2 = .ok t ∧
      execBuildStd addr m psp tsp ps ts s =
        finish .ok (emitFrame addr (packCmd1 x.1 x.2 mo) (packCmd2 mo) p t) (s.commitSpeeds p t)) := by
  unfold execBuildStd
  cases h1 : readIntent m with
  | error k => exact .inl ⟨k, rfl, rfl⟩
  | ok mo =>
    cases h2 : matrix mo.scan mo.cam with
    | none => exact .inr (.inl ⟨mo, rfl, h2, by simp [h2]⟩)
    | some x =>
      cases h3 : resolveSpeed psp ps s.stickyPan 5 1 with
      | error i => exact .inr (.inr (.inl ⟨mo, x, i, rfl, h2, rfl, by simp [h2]⟩))
      | ok p =>
        cases h4 : resolveSpeed tsp ts s.stickyTilt 6 2 with
        | error i => exact .inr (.inr (.inr (.inl ⟨mo, x, p, i, rfl, h2, rfl, rfl, by simp [h2]⟩)))
        | ok t => exact .inr (.inr (.inr (.inr ⟨mo, x, p, t, rfl, h2, rfl, rfl, by simp [h2]⟩)))

/-- A resolved speed is a legal speed byte (R188). -/
theorem resolveSpeed_legal (p : Bool) (v : Arg) (sticky : Option Byte) (e1 e2 : BitVec 4) (b : Byte)
    (h : resolveSpeed p v sticky e1 e2 = .ok b) : legalSpeed b = true := by
  obtain ⟨u, _, hu, rfl⟩ := resolveSpeed_ok p v sticky e1 e2 b h
  rw [speedOk_iff] at hu
  simp only [legalSpeed, Bool.or_eq_true, decide_eq_true_eq, BitVec.toNat_eq, BitVec.extractLsb'_toNat,
    Nat.shiftRight_zero]
  rcases hu with hu | hu
  · exact .inl (by rw [hu]; rfl)
  · exact .inr (by omega)

/-- An error with one of its listed infos (R250, R252). -/
def RaisesAs (s t : State) : Prop :=
  ∃ c info, 2 ≤ (codeBits c).toNat ∧ info ∈ infosOf (codeBits c) ∧
    t = s.respond { Response.zero with code := codeBits c, info := info }

/-- A frame and nothing else (R111). -/
def EmitsAs (s t : State) : Prop := ∃ a c1 c2 d1 d2, t = s.respond (emitFrame a c1 c2 d1 d2)

/-- A frame and the commit of its two legal speeds (R190, R192). -/
def CommitsAs (s t : State) : Prop :=
  ∃ a c1 c2 p q, legalSpeed p = true ∧ legalSpeed q = true ∧
    t = (s.commitSpeeds p q).respond (emitFrame a c1 c2 p q)

/-- A decode: no reply, or the fields of a valid frame (R112, R113). -/
def DecodesAs (s t : State) : Prop :=
  t = s.respond { Response.zero with code := 1 } ∨
  ∃ a c1 c2 d1 d2 al pn,
    t = s.respond { Response.zero with
      dAddr := a, dCmd1 := c1, dCmd2 := c2, dData1 := d1, dData2 := d2, dAlarm := al, dPart := pn }

theorem decodeFrame_shape (len n : Nat) (rx : Bytes7) (a c1 c2 d1 d2 al : Byte) (pn : BitVec 16) (s : State) :
    ∃ t, decodeFrame len n rx { Response.zero with
        dAddr := a, dCmd1 := c1, dCmd2 := c2, dData1 := d1, dData2 := d2, dAlarm := al, dPart := pn } s = .next t ∧
      (RaisesAs s t ∨ DecodesAs s t) := by
  have hr : ∀ c info, checkFrame len n rx = .error c info → 2 ≤ (codeBits c).toNat → info ∈ infosOf (codeBits c) →
      ∃ t, decodeFrame len n rx { Response.zero with
          dAddr := a, dCmd1 := c1, dCmd2 := c2, dData1 := d1, dData2 := d2, dAlarm := al, dPart := pn } s = .next t ∧
        (RaisesAs s t ∨ DecodesAs s t) := by
    intro c info h h2 hi
    exact ⟨_, by rw [decodeFrame, h]; rfl, .inl ⟨c, info, h2, hi, rfl⟩⟩
  rcases checkFrame_cases len n rx with h | h | h | h | h | h
  · exact ⟨_, by rw [decodeFrame, h.2]; rfl, .inr (.inl rfl)⟩
  · exact hr _ _ h.2.2 (by decide) (by decide)
  · exact hr _ _ h.2.2 (by decide) (by decide)
  · exact hr _ _ h.2.2.2 (by decide) (by decide)
  · exact hr _ _ h.2.2.2.2 (by decide) (by decide)
  · exact ⟨_, by rw [decodeFrame, h.2.2.2.2]; rfl, .inr (.inr ⟨a, c1, c2, d1, d2, al, pn, rfl⟩)⟩

open Sys2Proof.Laws.OpFieldIs in
/-- Every operation answers, and what it leaves has one of these shapes. -/
theorem exec_shape (i : Instr) (s : State) :
    ∃ t, exec i s = .next t ∧
      (RaisesAs s t ∨
       ((opValue i = 1 ∨ opValue i = 2) ∧ EmitsAs s t) ∨
       (opValue i = 3 ∧ CommitsAs s t) ∨
       ((opValue i = 4 ∨ opValue i = 5 ∨ opValue i = 6) ∧ DecodesAs s t) ∨
       (opValue i = 7 ∧ t = s.respond { Response.zero with
          sPanV := s.stickyPan.isSome, sPan := s.stickyPan.getD 0, sTiltV := s.stickyTilt.isSome,
          sTilt := s.stickyTilt.getD 0 })) := by
  have hr : ∀ c info, exec i s = raise c info s → 2 ≤ (codeBits c).toNat → info ∈ infosOf (codeBits c) →
      ∃ t, exec i s = .next t ∧ RaisesAs s t := fun c info h h2 hi => ⟨_, h, c, info, h2, hi, rfl⟩
  cases i with
  | encode a c1 c2 d1 d2 => exact ⟨_, rfl, .inr (.inl ⟨.inl rfl, a, c1, c2, d1, d2, rfl⟩)⟩
  | issueExt a k p1 p2 x1 x2 =>
    rcases execIssueExt_cases a k p1 p2 x1 x2 s with h | ⟨c, _, h1, h⟩ | ⟨r, c, _, _, h1, h⟩ | ⟨r, q, _, _, _, h⟩
    · obtain ⟨t, ht, hs⟩ := hr _ _ h.2 (by decide) (by decide)
      exact ⟨t, ht, .inl hs⟩
    · have := validateArg_error _ _ _ _ h1
      obtain ⟨t, ht, hs⟩ := hr _ _ h (by rcases this with rfl | rfl | rfl <;> decide)
        (by rcases this with rfl | rfl | rfl <;> decide)
      exact ⟨t, ht, .inl hs⟩
    · have := validateArg_error _ _ _ _ h1
      obtain ⟨t, ht, hs⟩ := hr _ _ h (by rcases this with rfl | rfl | rfl <;> decide)
        (by rcases this with rfl | rfl | rfl <;> decide)
      exact ⟨t, ht, .inl hs⟩
    · exact ⟨_, h, .inr (.inl ⟨.inr rfl, _, _, _, _, _, rfl⟩)⟩
  | buildStd a m psp tsp ps ts =>
    rcases execBuildStd_cases a m psp tsp ps ts s with
      ⟨k, h1, h⟩ | ⟨_, _, _, h⟩ | ⟨_, _, i, _, _, h1, h⟩ | ⟨_, _, _, i, _, _, _, h1, h⟩ | ⟨_, _, p, q, _, _, h1, h2, h⟩
    · have := readIntent_error m k h1
      obtain ⟨t, ht, hs⟩ := hr _ _ h (by decide) (by
        rcases this with h | h | h | h | h | h | h <;> rw [h.1] <;> decide)
      exact ⟨t, ht, .inl hs⟩
    · obtain ⟨t, ht, hs⟩ := hr _ _ h (by decide) (by decide)
      exact ⟨t, ht, .inl hs⟩
    · have := resolveSpeed_error _ _ _ _ _ _ h1
      obtain ⟨t, ht, hs⟩ := hr _ _ h (by decide) (by rcases this with rfl | rfl <;> decide)
      exact ⟨t, ht, .inl hs⟩
    · have := resolveSpeed_error _ _ _ _ _ _ h1
      obtain ⟨t, ht, hs⟩ := hr _ _ h (by decide) (by rcases this with rfl | rfl <;> decide)
      exact ⟨t, ht, .inl hs⟩
    · exact ⟨_, h, .inr (.inr (.inl ⟨rfl, _, _, _, p, q, resolveSpeed_legal _ _ _ _ _ _ h1,
        resolveSpeed_legal _ _ _ _ _ _ h2, rfl⟩))⟩
  | decodeCmd n rx =>
    obtain ⟨t, ht, hs | hs⟩ := decodeFrame_shape 7 n rx (byteAt rx 1) (byteAt rx 2) (byteAt rx 3) (byteAt rx 4)
      (byteAt rx 5) 0 0 s
    · exact ⟨t, ht, .inl hs⟩
    · exact ⟨t, ht, .inr (.inr (.inr (.inl ⟨.inl rfl, hs⟩)))⟩
  | decodeStatus n rx =>
    obtain ⟨t, ht, hs | hs⟩ := decodeFrame_shape 4 n rx (byteAt rx 1) 0 0 0 0 (byteAt rx 2) 0 s
    · exact ⟨t, ht, .inl hs⟩
    · exact ⟨t, ht, .inr (.inr (.inr (.inl ⟨.inr (.inl rfl), hs⟩)))⟩
  | decodeQuery n rx =>
    by_cases hq : s.cfg.querySupported = false
    · obtain ⟨t, ht, hs⟩ := hr .unsupportedOperation 0 (by simp only [exec, execDecodeQuery, hq, if_true]) (by decide)
        (by decide)
      exact ⟨t, ht, .inl hs⟩
    · obtain ⟨t, ht, hs⟩ := decodeFrame_shape 5 n rx (byteAt rx 1) 0 0 0 0 0 (byteAt rx 2 ++ byteAt rx 3) s
      have he : exec (.decodeQuery n rx) s = .next t := by
        simp only [exec, execDecodeQuery, hq]
        exact ht
      rcases hs with hs | hs
      · exact ⟨t, he, .inl hs⟩
      · exact ⟨t, he, .inr (.inr (.inr (.inl ⟨.inr (.inr rfl), hs⟩)))⟩
  | readSession => exact ⟨_, rfl, .inr (.inr (.inr (.inr ⟨rfl, rfl⟩)))⟩

end Sys2Proof.Machine
end

