-- ==== Sys2Proof/Laws/Memory.lean ====
section
/-! SUPPORT. The laws of the catalog ROM: what reading gives after programming an entry, and that programming keeps the
canonical form. -/

namespace Sys2Proof

/-- An id below the first listed one reads as the all-zero word. -/
theorem Memory.read_below (id : Nat) (m : Memory) :
    ∀ lo, id < lo → Memory.wfFrom lo m = true → Memory.read m id = 0#64 := by
  induction m with
  | nil => intros; rfl
  | cons p m ih =>
    intro lo hlt hw
    simp only [Memory.wfFrom, Bool.and_eq_true, decide_eq_true_eq] at hw
    have hne : p.1 ≠ id := by omega
    simp only [Memory.read, hne, if_false]
    exact ih (p.1 + 1) (by omega) hw.2

/-- The canonical form from a later id on is one from an earlier id on. -/
theorem Memory.wfFrom_mono (m : Memory) (lo lo' : Nat) (h : lo ≤ lo') (hw : Memory.wfFrom lo' m = true) :
    Memory.wfFrom lo m = true := by
  cases m with
  | nil => rfl
  | cons p m =>
    simp only [Memory.wfFrom, Bool.and_eq_true, decide_eq_true_eq] at hw ⊢
    exact ⟨⟨⟨by omega, hw.1.1.2⟩, hw.1.2⟩, hw.2⟩

theorem Memory.read_put_same_from (id : Nat) (w : CatWord) (m : Memory) :
    ∀ lo, Memory.wfFrom lo m = true → Memory.read (Memory.put m id w) id = w := by
  induction m with
  | nil => intro _ _; by_cases hz : w = 0#64 <;> simp [Memory.put, Memory.read, hz]
  | cons p m ih =>
    intro lo hw
    simp only [Memory.wfFrom, Bool.and_eq_true, decide_eq_true_eq] at hw
    obtain ⟨⟨⟨hlo, hk⟩, hp⟩, hm⟩ := hw
    by_cases hlt : id < p.1
    · by_cases hz : w = 0#64
      · simp only [Memory.put, hlt, hz, if_true]
        exact Memory.read_below id (p :: m) p.1 hlt (by simp [Memory.wfFrom, hk, hp, hm])
      · simp [Memory.put, Memory.read, hlt, hz]
    · by_cases heq : id = p.1
      · by_cases hz : w = 0#64
        · simp only [Memory.put, heq, lt_irrefl, hz, if_true, if_false]
          exact Memory.read_below p.1 m (p.1 + 1) (by omega) hm
        · simp [Memory.put, Memory.read, heq, hz]
      · have hne : p.1 ≠ id := fun e => heq e.symm
        simp only [Memory.put, hlt, heq, if_false, Memory.read, hne]
        exact ih (p.1 + 1) hm

theorem Memory.read_put_other (id id' : Nat) (hne : id' ≠ id) (w : CatWord) (m : Memory) :
    Memory.read (Memory.put m id w) id' = Memory.read m id' := by
  have hne' : id ≠ id' := fun e => hne e.symm
  induction m with
  | nil => by_cases hz : w = 0#64 <;> simp [Memory.put, Memory.read, hz, hne']
  | cons p m ih =>
    simp only [Memory.put]
    split_ifs with hlt hz heq hz
    · rfl
    · simp [Memory.read, hne']
    · have : p.1 ≠ id' := by omega
      simp [Memory.read, this]
    · have : p.1 ≠ id' := by omega
      simp [Memory.read, this, hne']
    · simp only [Memory.read, ih]

theorem Memory.wfFrom_put (id : Nat) (hid : id < 256) (w : CatWord) (m : Memory) :
    ∀ lo, lo ≤ id → Memory.wfFrom lo m = true → Memory.wfFrom lo (Memory.put m id w) = true := by
  induction m with
  | nil => intro lo h _; by_cases hz : w = 0#64 <;> simp [Memory.put, Memory.wfFrom, hz, h, hid]
  | cons p m ih =>
    intro lo hle hw
    have hw' := hw
    simp only [Memory.wfFrom, Bool.and_eq_true, decide_eq_true_eq] at hw'
    obtain ⟨⟨⟨hlo, hk⟩, hp⟩, hm⟩ := hw'
    simp only [Memory.put]
    split_ifs with hlt hz heq hz
    · exact hw
    · simp [Memory.wfFrom, hle, hid, hz, hk, hp, hm]; omega
    · exact Memory.wfFrom_mono m lo (p.1 + 1) (by omega) hm
    · simp [Memory.wfFrom, hz, heq, hlo, hk, hm]
    · simp [Memory.wfFrom, hlo, hk, hp]
      exact ih (p.1 + 1) (by omega) hm

/-- Reading the entry that was programmed gives its word. -/
theorem Memory.read_put_same (m : Memory) (id : Nat) (w : CatWord) (h : Memory.wf m = true) :
    Memory.read (Memory.put m id w) id = w := Memory.read_put_same_from id w m 0 h

/-- Programming an entry keeps the canonical form. -/
theorem Memory.wf_put (m : Memory) (id : Nat) (hid : id < 256) (w : CatWord) (h : Memory.wf m = true) :
    Memory.wf (Memory.put m id w) = true := Memory.wfFrom_put id hid w m 0 (Nat.zero_le _) h

theorem Memory.read_nil (id : Nat) : Memory.read [] id = 0#64 := rfl

/-- The ROM of the reset state is in canonical form. -/
theorem Memory.wf_reset : Memory.wf Machine.State.reset.cfg.cat = true := by decide

/-- The default configuration is not refused, and it holds the required operations (R88, R162). -/
theorem Config.default_bootReady : Config.default.bootReady = true := by decide

/-- The id of a named entry is one the configuration lists with that name. -/
theorem Config.mem_of_idOf (c : Config) (op : CatalogOp) (id : Byte) (h : c.idOf op = some id) : (op, id) ∈ c.names := by
  have key : ∀ l : List (CatalogOp × Byte), l.lookup op = some id → (op, id) ∈ l := by
    intro l
    induction l with
    | nil =>
      intro hl
      cases hl
    | cons x l ih =>
      obtain ⟨o, k⟩ := x
      intro hl
      rw [List.lookup_cons] at hl
      by_cases hx : op = o
      · subst hx
        simp only [beq_self_eq_true, Option.some.injEq] at hl
        exact List.mem_cons.mpr (.inl (by rw [hl]))
      · have hb : (op == o) = false := by simpa using hx
        simp only [hb] at hl
        exact List.mem_cons_of_mem _ (ih hl)
  exact key _ h

end Sys2Proof
end

