-- ==== Sys2Proof/Laws/Readers.lean ====
section
/-! SUPPORT. What the operand readers answer for each form of their operand, and that an operation reads of the state
only the configuration and the sticky registers. -/

namespace Sys2Proof.Machine

theorem readTri_reserved {α : Type} (k : BitVec 4) (a b : α) : readTri k a b .reserved = .error k := rfl

theorem readTri_of_ne {α : Type} (k : BitVec 4) (a b : α) (t : Tri) (h : t ≠ .reserved) :
    ∃ x, readTri k a b t = .ok x := by
  cases t
  · exact ⟨_, rfl⟩
  · exact ⟨_, rfl⟩
  · exact ⟨_, rfl⟩
  · exact absurd rfl h

/-- `ValidateArg` on a present argument of a range slot, as a bound on the number (R145). -/
theorem validateArg_range (lo hi : Byte) (v : Arg) :
    validateArg (.range lo hi) true v =
      if lo.toNat ≤ v.toNat ∧ v.toNat ≤ hi.toNat then .ok (v.extractLsb' 0 8) else .error .argumentOutOfRange := by
  have h1 : lo.toNat % 4294967296 = lo.toNat := by omega
  have h2 : hi.toNat % 4294967296 = hi.toNat := by omega
  simp [validateArg, BitVec.le_def, h1, h2]

/-- `ValidateArg` on a present argument of a fixed slot, as an equation of numbers (R143). -/
theorem validateArg_fixed (b : Byte) (v : Arg) :
    validateArg (.fixed b) true v = if v.toNat = b.toNat then .ok b else .error .argumentMismatch := by
  have h : b.toNat % 4294967296 = b.toNat := by omega
  simp [validateArg, BitVec.toNat_eq, h]

/-- `ValidateArg` accepts exactly the arguments without a `slotError`, and otherwise answers the code of that number. -/
theorem validateArg_ofFields (k : Bool) (lo hi : Byte) (p : Bool) (v : Arg) :
    (slotError k lo hi p v = none → ∃ r, validateArg (ArgSpec.ofFields k lo hi) p v = .ok r) ∧
    (∀ n, slotError k lo hi p v = some n →
      ∃ c, validateArg (ArgSpec.ofFields k lo hi) p v = .error c ∧ codeBits c = n) := by
  have hf : ArgSpec.ofFields false lo hi = .fixed lo := rfl
  have hr : ArgSpec.ofFields true lo hi = .range lo hi := rfl
  cases k <;> cases p
  · exact ⟨fun _ => ⟨lo, rfl⟩, fun n h => by simp [slotError] at h⟩
  · rw [hf, validateArg_fixed]
    by_cases h : v.toNat = lo.toNat
    · exact ⟨fun _ => ⟨lo, if_pos h⟩, fun n hn => by simp [slotError, h] at hn⟩
    · refine ⟨fun hn => by simp [slotError, h] at hn, fun n hn => ⟨_, if_neg h, ?_⟩⟩
      simpa [slotError, h, codeBits] using hn
  · refine ⟨fun hn => by simp [slotError] at hn, fun n hn => ⟨.missingArgument, rfl, ?_⟩⟩
    simpa [slotError, codeBits] using hn
  · rw [hr, validateArg_range]
    by_cases h : lo.toNat ≤ v.toNat ∧ v.toNat ≤ hi.toNat
    · exact ⟨fun _ => ⟨_, if_pos h⟩, fun n hn => by simp [slotError, h] at hn⟩
    · refine ⟨fun hn => by simp [slotError, h] at hn, fun n hn => ⟨_, if_neg h, ?_⟩⟩
      simpa [slotError, h, codeBits] using hn

/-- The speed an axis uses, before it is checked (R186). -/
theorem resolveSpeed_eq (p : Bool) (v : Arg) (sticky : Option Byte) (e1 e2 : BitVec 4) (x : Option Arg)
    (hx : x = if p then some v else sticky.map (·.setWidth 32)) :
    (x = none → resolveSpeed p v sticky e1 e2 = .error e1) ∧
    (∀ u, x = some u → speedOk u = true → resolveSpeed p v sticky e1 e2 = .ok (u.extractLsb' 0 8)) ∧
    (∀ u, x = some u → speedOk u = false → resolveSpeed p v sticky e1 e2 = .error e2) := by
  unfold resolveSpeed
  rw [← hx]
  refine ⟨?_, ?_, ?_⟩
  · rintro rfl
    rfl
  · rintro u rfl h
    simp [h]
  · rintro u rfl h
    simp [h]

/-- A decode operation in closed form (R112). -/
theorem decodeFrame_eq (len n : Nat) (rx : Bytes7) (fields : Response) (s : State) :
    decodeFrame len n rx fields s = .next (s.respond (
      if n = 0 then { Response.zero with code := 1 }
      else if n < len then { Response.zero with code := 8, info := 1 }
      else if len < n then { Response.zero with code := 8, info := 2 }
      else if (byteAt rx 0 ≠ 0xFF#8) then { Response.zero with code := 8, info := 3 }
      else if (sum8 (bytesFrom rx 1 (len - 2)) ≠ byteAt rx (len - 1)) then { Response.zero with code := 9 }
      else { fields with code := 0, info := 0 })) := by
  unfold decodeFrame checkFrame
  split_ifs <;> rfl

/-- What `t` says of the block in place of what `u` says: the response, the sticky registers and the phase. -/
def State.takeFrom (u t : State) : State :=
  { u with rsp := t.rsp, stickyPan := t.stickyPan, stickyTilt := t.stickyTilt, phase := t.phase }

/-- Two states that agree on configuration and sticky registers get the same response and the same sticky registers. -/
theorem exec_of_agree (i : Instr) (s u : State) (h1 : s.cfg = u.cfg) (h2 : s.stickyPan = u.stickyPan)
    (h3 : s.stickyTilt = u.stickyTilt) : ∃ t, exec i s = .next t ∧ exec i u = .next (u.takeFrom t) := by
  have fin : ∀ c r, ∃ t, finish c r s = .next t ∧ finish c r u = .next (u.takeFrom t) := by
    intro c r
    exact ⟨_, rfl, by simp [finish, State.takeFrom, State.respond, h2, h3]⟩
  have rai : ∀ c r, ∃ t, raise c r s = .next t ∧ raise c r u = .next (u.takeFrom t) := by
    intro c r
    exact ⟨_, rfl, by simp [raise, State.takeFrom, State.respond, h2, h3]⟩
  have dec : ∀ len n rx f, ∃ t, decodeFrame len n rx f s = .next t ∧ decodeFrame len n rx f u = .next (u.takeFrom t) := by
    intro len n rx f
    unfold decodeFrame
    split
    · exact fin _ _
    · exact fin _ _
    · exact rai _ _
  have he : ∀ id, entryAt s id = entryAt u id := by
    intro id
    rw [entryAt, h1]
    rfl
  cases i with
  | encode addr cmd1 cmd2 data1 data2 => exact fin _ _
  | issueExt addr cmdId a1p a2p arg1 arg2 =>
    simp only [exec, execIssueExt, he]
    split
    · exact rai _ _
    · split
      · exact rai _ _
      · exact rai _ _
      · exact fin _ _
  | buildStd addr intent psp tsp panSpeed tiltSpeed =>
    simp only [exec, execBuildStd, h2, h3]
    split
    · exact rai _ _
    · split
      · exact rai _ _
      · split
        · exact rai _ _
        · split
          · exact rai _ _
          · exact ⟨_, rfl, by simp [finish, State.takeFrom, State.respond, State.commitSpeeds]⟩
  | decodeCmd n rx => exact dec _ _ _ _
  | decodeStatus n rx => exact dec _ _ _ _
  | decodeQuery n rx =>
    simp only [exec, execDecodeQuery, h1]
    split
    · exact rai _ _
    · exact dec _ _ _ _
  | readSession =>
    simp only [exec, execReadSession, h2, h3]
    exact fin _ _

/-- The same of a request word, rejected or not. -/
theorem runRequest_of_agree (w : ReqWord) (s u : State) (h1 : s.cfg = u.cfg) (h2 : s.stickyPan = u.stickyPan)
    (h3 : s.stickyTilt = u.stickyTilt) : ∃ t, runRequest w s = .next t ∧ runRequest w u = .next (u.takeFrom t) := by
  unfold runRequest
  split
  · exact exec_of_agree _ _ _ h1 h2 h3
  · exact ⟨_, rfl, by simp [raise, State.takeFrom, State.respond, h2, h3]⟩

end Sys2Proof.Machine
end

