-- ==== Sys2Proof/Laws/Run.lean ====
section
/-! SUPPORT. Runs of several edges: one edge at a time, and in parts. -/

namespace Sys2Proof.Machine

theorem run_succ (k : Nat) (s t : State) (h : step s = .next t) :
    Sys2Proof.core.run (k + 1) s = Sys2Proof.core.run k t := by
  have h' : Sys2Proof.core.step s = .next t := h
  simp only [Host.Core.run, h']

theorem run_add (a b : Nat) (s t : State) (h : Sys2Proof.core.run a s = .next t) :
    Sys2Proof.core.run (a + b) s = Sys2Proof.core.run b t := by
  induction a generalizing s with
  | zero =>
    cases h
    rw [Nat.zero_add]
  | succ n ih =>
    rw [Nat.succ_add]
    cases hs : step s with
    | next s' => exact (run_succ _ s s' hs).trans (ih s' ((run_succ n s s' hs).symm.trans h))
    | fault f =>
      have h' : Sys2Proof.core.step s = .fault f := hs
      simp only [Host.Core.run, h'] at h
      cases h
    | refused r =>
      have h' : Sys2Proof.core.step s = .refused r := hs
      simp only [Host.Core.run, h'] at h
      cases h

/-- What an edge with `rst` = 0 does when the block can run (R26, R29). -/
theorem step_of_ready (s : State) (hc : s.cfg.wf = true) (hr : s.resetSeen = true) (hp : s.pins.rst = false) :
    step s = clockEdge s.pins s.tick := by
  have e : ¬ s.tick.resetSeen = false := by
    rw [show s.tick.resetSeen = s.resetSeen from rfl, hr]
    exact Bool.noConfusion
  rw [step, if_pos hc, risingEdge, if_neg (by rw [hp]; exact Bool.noConfusion), if_neg e]

end Sys2Proof.Machine
end

