-- ==== Sys2Proof/Tests/Slice0.lean ====
section
/-! SUPPORT. The model's own tests, their expected results from 95_test_vectors.md and the encoding tables, and for every
statement with hypotheses a witness that meets them. -/

namespace Sys2Proof.Tests

open Sys2Proof.Machine

/-- The next state, if there is one. -/
def nextOf : Host.Outcome State Fault Refusal → Option State
  | .next t => some t
  | .fault _ => none
  | .refused _ => none

/-- The response to a request word. -/
def resp (w : ReqWord) (s : State) : Option Response := (nextOf (runRequest w s)).map (·.rsp)

/-- After reset, with the two sticky registers at given values. -/
def withSpeeds (p t : Option Byte) : State := { State.reset with stickyPan := p, stickyTilt := t }

/-- After reset, with the response of request `w` due on the next edge. -/
def inFlight (w : ReqWord) (left : Nat) : State := { State.reset with phase := .inFlight w left }

/-- The configuration with one catalog entry in place of the reference catalog. -/
def oneEntry (id : Nat) (e : CatWord) : Config := { Config.default with cat := [(id, e)], names := [] }

def zero7 : Bytes7 := ⟨0, 0, 0, 0, 0, 0, 0⟩

def still : Intent := ⟨.none, .none, .none, .none, .none, .none, .none⟩

/-! Well-formedness: a byte count of 8 has no place in `REQ[6:4]` (R78). -/

theorem test_wf_decodeCmd : (Instr.decodeCmd 8 zero7).wf = false ∧ (Instr.decodeCmd 7 zero7).wf = true := by decide
theorem test_wf_decodeStatus : (Instr.decodeStatus 8 zero7).wf = false ∧ (Instr.decodeStatus 7 zero7).wf = true := by
  decide
theorem test_wf_decodeQuery : (Instr.decodeQuery 8 zero7).wf = false ∧ (Instr.decodeQuery 7 zero7).wf = true := by
  decide

/-! Well-formedness of configurations (R88, R31). -/

theorem test_config_default : Config.default.wf = true := by decide
/-- R88 (a): a valid bit of 0 with another bit set. -/
theorem test_config_invalid_nonzero : (oneEntry 3 0x0000160000070000#64).wf = false := by decide
/-- R88 (b): bits 3, 7, 56 and 63 are reserved. -/
theorem test_config_reserved :
    (oneEntry 3 0x0000160000070009#64).wf = false ∧ (oneEntry 3 0x0000160000070081#64).wf = false ∧
    (oneEntry 3 0x0100160000070001#64).wf = false ∧ (oneEntry 3 0x8000160000070001#64).wf = false := by decide
/-- R88 (c): a fixed byte has 0 in the field of the upper bound. -/
theorem test_config_fixed_hi :
    (oneEntry 3 0x0000160100070001#64).wf = false ∧ (oneEntry 3 0x0001160000070001#64).wf = false := by decide
/-- R88 (d): lo = hi is a range, lo > hi is none. -/
theorem test_config_range :
    (oneEntry 3 0x0005050000070005#64).wf = true ∧ (oneEntry 3 0x0004050000070005#64).wf = false := by decide
/-- R88 (e): an entry named GotoZeroPan is the source's. -/
theorem test_config_goto_zero_pan :
    { oneEntry 3 0x0000160000070001#64 with names := [(.gotoZeroPan, 3)] }.wf = true ∧
    { oneEntry 3 0x0000170000070001#64 with names := [(.gotoZeroPan, 3)] }.wf = false := by decide
/-- R50: the index of an entry has 8 bits. -/
theorem test_config_index : (oneEntry 255 1#64).wf = true ∧ (oneEntry 256 1#64).wf = false := by decide
/-- V9: a reset speed 0x40 is refused. -/
theorem test_config_reset_speed :
    { Config.default with stickyResetPan := some 0x40 }.wf = false ∧
    { Config.default with stickyResetTilt := some 0x40 }.wf = false ∧
    { Config.default with stickyResetPan := some 0x3F, stickyResetTilt := some 0xFF }.wf = true := by decide

/-- R162: two operations at one id are not one entry for each. -/
theorem test_config_shared_id :
    Config.default.holdsRequired = true ∧
    { Config.default with names := (.clearAux, 4) :: Config.default.names }.holdsRequired = false := by decide

/-! Decoding: each word is put together from the format's table, fields from the most significant bit down. -/

/-- Format R (R74): data2, data1, cmd2, cmd1, addr, 0000, op 0001. -/
theorem test_decode_encode :
    decode (0#80 ++ 0x55#8 ++ 0x44#8 ++ 0x33#8 ++ 0x22#8 ++ 0x11#8 ++ 0b0000#4 ++ 0b0001#4) =
      .instr (.encode 0x11 0x22 0x33 0x44 0x55) := by decide
/-- Format X (R75): arg2, arg1, 000000, a2p, a1p, cmd_id, addr, 0000, op 0010. -/
theorem test_decode_issueExt :
    decode (0#32 ++ 0x0000003E#32 ++ 0x80000001#32 ++ 0b000000#6 ++ 0b1#1 ++ 0b0#1 ++ 0x02#8 ++ 0x01#8 ++ 0b0000#4
      ++ 0b0010#4) = .instr (.issueExt 0x01 0x02 false true 0x80000001 0x3E) := by decide
/-- Format S (R77, R81): tilt_speed, pan_speed, tsp, psp, cam, scan, zoom, focus, iris, tilt, pan, addr, 0000, op 0011. -/
theorem test_decode_buildStd :
    decode (0#32 ++ 0x00000010#32 ++ 0x00000020#32 ++ 0b0#1 ++ 0b1#1 ++ 0b00#2 ++ 0b01#2 ++ 0b10#2 ++ 0b11#2 ++ 0b01#2
      ++ 0b00#2 ++ 0b10#2 ++ 0x07#8 ++ 0b0000#4 ++ 0b0011#4) =
      .instr (.buildStd 0x07 ⟨.second, .none, .first, .reserved, .second, .first, .none⟩ true false 0x20 0x10) := by
  decide
/-- Format D (R78): RX[6] down to RX[0], 0, n, op 0100. -/
theorem test_decode_decodeCmd :
    decode (0#64 ++ 0x23#8 ++ 0x00#8 ++ 0x20#8 ++ 0x02#8 ++ 0x00#8 ++ 0x01#8 ++ 0xFF#8 ++ 0b0#1 ++ 0b111#3 ++ 0b0100#4) =
      .instr (.decodeCmd 7 ⟨0xFF, 0x01, 0x00, 0x02, 0x20, 0x00, 0x23⟩) := by decide
/-- Format D, op 0101. -/
theorem test_decode_decodeStatus :
    decode (0#64 ++ 0#24 ++ 0x82#8 ++ 0x80#8 ++ 0x02#8 ++ 0xFF#8 ++ 0b0#1 ++ 0b100#3 ++ 0b0101#4) =
      .instr (.decodeStatus 4 ⟨0xFF, 0x02, 0x80, 0x82, 0, 0, 0⟩) := by decide
/-- Format D, op 0110. -/
theorem test_decode_decodeQuery :
    decode (0#64 ++ 0#16 ++ 0x47#8 ++ 0x34#8 ++ 0x12#8 ++ 0x01#8 ++ 0xFF#8 ++ 0b0#1 ++ 0b101#3 ++ 0b0110#4) =
      .instr (.decodeQuery 5 ⟨0xFF, 0x01, 0x12, 0x34, 0x47, 0, 0⟩) := by decide
/-- Format N (R79): op 0111. -/
theorem test_decode_readSession : decode (0#124 ++ 0b0111#4) = .instr .readSession := by decide
/-- V8, V7: reserved operations and a reserved bit. -/
theorem test_decode_rejects :
    decode 0x00000000000000000000000000000008#128 = .reject .reservedOp ∧
    decode 0xFFFFFFFFFFFFFFFFFFFFFFFFFFFFFFFF#128 = .reject .reservedOp ∧
    decode 0x00000000000000000000000000000017#128 = .reject .reservedBit := by decide
/-- The words of P1 and E3 as the encoder gives them. -/
theorem test_encode_words :
    encode (.buildStd 0x01 ⟨.second, .none, .none, .none, .none, .none, .none⟩ true true 0x20 0) =
      0x000000000000000000000020C0020103#128 ∧
    encode (.issueExt 0x01 0x04 false true 0 8) = 0x00000000000000080000000002040102#128 ∧
    encode (.decodeQuery 5 ⟨0xFF, 0x01, 0x12, 0x34, 0x47, 0, 0⟩) = 0x0000000000000000000047341201FF56#128 ∧
    encode .readSession = 7#128 := by decide
/-- The table's word of op 7 alone: the bits above it are 0. -/
theorem test_table_word : decodeTableWord 8 7 = some .readSession ∧ decodeTableWord 128 0x17 = none := by decide

/-! One test or two an operation, from 95_test_vectors.md. -/

/-- E1. -/
theorem test_encode_frame :
    (resp 0x00000000000000000000002002000101#128 State.reset).map (fun r => (r.code, r.txLen, r.tx)) =
      some (0, 7, ⟨0xFF, 0x01, 0x00, 0x02, 0x20, 0x00, 0x23⟩) := by decide
/-- R10: the sum 5 * 0xFF = 0x4FB wraps to 0xFB (V4's frame of 0xFF bytes). -/
theorem test_encode_wraps :
    (nextOf (exec (.encode 0xFF 0xFF 0xFF 0xFF 0xFF) State.reset)).map (·.rsp.tx.b6) = some 0xFB := by decide
/-- E2, GotoZeroPan with 22 and with 23. -/
theorem test_issueExt_fixed :
    (resp 0x00000000000000160000000002030102#128 State.reset).map (·.tx) =
      some ⟨0xFF, 0x01, 0x00, 0x07, 0x00, 0x16, 0x1E⟩ ∧
    (resp 0x00000000000000170000000002030102#128 State.reset).map (fun r => (r.code, r.info)) = some (5, 2) := by decide
/-- E3, SetAux at 8 and at 9. -/
theorem test_issueExt_range :
    (resp 0x00000000000000080000000002040102#128 State.reset).map (·.tx) =
      some ⟨0xFF, 0x01, 0x00, 0x09, 0x00, 0x08, 0x12⟩ ∧
    (resp 0x00000000000000090000000002040102#128 State.reset).map (fun r => (r.code, r.info)) = some (4, 2) := by decide
/-- V3, all seven fields set. -/
theorem test_buildStd_all :
    (nextOf (runRequest 0x000000000000003F000000FFD6A50103#128 State.reset)).map
        (fun t => (t.rsp.tx, t.stickyPan, t.stickyTilt)) =
      some (⟨0xFF, 0x01, 0x9C, 0xCC, 0xFF, 0x3F, 0xA7⟩, some 0xFF, some 0x3F) := by decide
/-- V3, a tilt speed that is not legal: the pan speed is not committed. -/
theorem test_buildStd_no_commit :
    (nextOf (runRequest 0x000000000000004000000020C0000103#128 (withSpeeds (some 0x30) (some 0x10)))).map
        (fun t => (t.rsp.code, t.rsp.info, t.stickyPan, t.stickyTilt)) =
      some (7, 2, some 0x30, some 0x10) := by decide
/-- V4. -/
theorem test_decodeCmd_fields :
    (resp 0x0000000000000000230020020001FF74#128 State.reset).map
        (fun r => (r.code, r.dAddr, r.dCmd1, r.dCmd2, r.dData1, r.dData2)) =
      some (0, 0x01, 0x00, 0x02, 0x20, 0x00) := by decide
/-- V4: the sync byte is checked before the checksum. -/
theorem test_decodeCmd_sync_first :
    (resp 0x00000000000000002400200200010074#128 State.reset).map (fun r => (r.code, r.info)) = some (8, 3) := by decide
/-- V5: alarm 8 alone. -/
theorem test_decodeStatus_alarm :
    (resp 0x0000000000000000000000828002FF45#128 State.reset).map (fun r => (r.code, r.dAddr, r.dAlarm)) =
      some (0, 0x02, 0x80) := by decide
/-- V5: five bytes, and none. -/
theorem test_decodeStatus_length :
    (resp 0x0000000000000000000000060501FF55#128 State.reset).map (fun r => (r.code, r.info)) = some (8, 2) ∧
    (resp 0x00000000000000000000000000000005#128 State.reset).map (fun r => (r.code, r.info)) = some (1, 0) := by decide
/-- V6: the part number is big-endian. -/
theorem test_decodeQuery_part :
    (resp 0x0000000000000000000047341201FF56#128 State.reset).map (fun r => (r.code, r.dPart)) =
      some (0, 0x1234) := by decide
/-- V6, a variant without query replies: before the check for no reply. -/
theorem test_decodeQuery_unsupported :
    (resp 0x00000000000000000000000000000006#128
        { State.reset with cfg := { Config.default with querySupported := false } }).map (·.code) = some 10 := by decide
/-- V7. -/
theorem test_readSession :
    (resp 7#128 (withSpeeds (some 0xFF) (some 0x00))).map (fun r => (r.sPanV, r.sPan, r.sTiltV, r.sTilt)) =
      some (true, 0xFF, true, 0x00) ∧
    (resp 7#128 State.reset).map (fun r => (r.sPanV, r.sPan, r.sTiltV, r.sTilt)) = some (false, 0, false, 0) := by decide
/-- R97, P3: `camon 0x01` is the word of P3 line 2. -/
theorem test_assemble_camon :
    asmWord Config.default (.camon 0x01) = some 0x00000000000000000000000010000103#128 ∧
    asmWord Config.default (.goto 0x01 62) = some 0x000000000000003E0000000002020102#128 := by decide

/-! Steps. -/

/-- A request word placed where it will be fetched runs on the next edge. -/
theorem test_step_fetch : (nextOf (step (State.reset.withFetchWord 8 7))).map (·.rspValid) = some true := by decide
/-- V9: a reset edge while the sticky registers hold speeds. -/
theorem test_step_reset :
    (nextOf (step { withSpeeds (some 0x20) (some 0x10) with inputs := [⟨true, true, 7#128, true⟩] })).map
        (fun t => (t.stickyPan, t.stickyTilt, t.busy, t.inputs)) = some (none, none, false, []) := by decide
/-- V9: a reset while a BUILD_STD is in flight: no response, no sticky write. -/
theorem test_step_reset_in_flight :
    (nextOf (step { inFlight 0x000000000000001000000020C0000103#128 1 with inputs := [⟨true, false, 0, false⟩] })).map
        (fun t => (t.stickyPan, t.rspValid)) = some (none, false) := by decide
theorem test_step_refuses_bad_catalog :
    nextOf (step { State.reset with cfg := oneEntry 3 2#64 }) = none := by decide

/-! Witnesses: for each statement with hypotheses, a state and operands that meet them together; where a statement has
several clauses, one for each. -/

theorem witness_DecodeOfEncode : (Instr.decodeCmd 7 zero7).wf = true ∧ (Instr.buildStd 1 still true true 0 0).wf = true := by
  decide
theorem witness_EncodeOfDecode :
    decode 0x0000000000000016000000000203FF02#128 = .instr (.issueExt 0xFF 0x03 false true 0 22) := by decide
/-- The ends of the reserved op values, and their neighbours that are not reserved. -/
theorem witness_ReservedOpRaises :
    opField 0x10#128 = 0x0#4 ∧ 0x8 ≤ (opField 0x8#128).toNat ∧ 0x8 ≤ (opField 0xF#128).toNat ∧
    ¬(opField 0x1#128 = 0x0#4 ∨ 0x8 ≤ (opField 0x1#128).toNat) ∧
    ¬(opField 0x7#128 = 0x0#4 ∨ 0x8 ≤ (opField 0x7#128).toNat) := by decide
/-- The ends of the reserved ranges of each format. -/
theorem witness_RequestDecodingOrder_reserved :
    (∀ k ∈ [4, 7, 48, 127], reservedPos (opField (0x1#128 ||| (1#128 <<< k))).toNat k = true) ∧
    (∀ k ∈ [4, 7, 26, 31, 96, 127], reservedPos (opField (0x2#128 ||| (1#128 <<< k))).toNat k = true) ∧
    (∀ k ∈ [4, 7, 96, 127], reservedPos (opField (0x3#128 ||| (1#128 <<< k))).toNat k = true) ∧
    (∀ k ∈ [7, 64, 127], reservedPos (opField (0x6#128 ||| (1#128 <<< k))).toNat k = true) ∧
    (∀ k ∈ [4, 127], reservedPos (opField (0x7#128 ||| (1#128 <<< k))).toNat k = true ∧
      (0x7#128 ||| (1#128 <<< k)).getLsbD k = true) := by decide
/-- A word with every bit that is not reserved set. -/
theorem witness_RequestDecodingOrder_clear :
    ∀ k, reservedPos (opField 0xFFFFFFFFFF01#128).toNat k = true → (0xFFFFFFFFFF01#128).getLsbD k = false := by
  have bits : ∀ k < 128, reservedPos (opField 0xFFFFFFFFFF01#128).toNat k = true →
      (0xFFFFFFFFFF01#128).getLsbD k = false := by decide
  intro k hk
  by_cases h : k < 128
  · exact bits k h hk
  · exact BitVec.getLsbD_of_ge _ _ (by omega)
/-- Every bit of format R that is not reserved is set; and one word of each op. -/
theorem witness_RequestFields :
    (∀ k, reservedPos (opField 0xFFFFFFFFFF01#128).toNat k = true → (0xFFFFFFFFFF01#128).getLsbD k = false) ∧
    opField 0xFFFFFFFFFF01#128 = 0x1#4 ∧ opField 0x2#128 = 0x2#4 ∧ opField 0x3#128 = 0x3#4 ∧ opField 0x4#128 = 0x4#4 ∧
    opField 0x5#128 = 0x5#4 ∧ opField 0x6#128 = 0x6#4 ∧ opField 0x7#128 = 0x7#4 :=
  ⟨witness_RequestDecodingOrder_clear, by decide⟩
theorem witness_AbsentValuesIgnored :
    (false = true → (1 : Arg) = 2) ∧ (true = true → (0x3F : Arg) = 0x3F) ∧ (1 : Arg) ≠ 2 := by decide
theorem witness_UnreceivedBytesIgnored :
    (∀ k, k < 6 → k < 7 → byteAt zero7 k = byteAt { zero7 with b6 := 1 } k) ∧
    byteAt zero7 6 ≠ byteAt { zero7 with b6 := 1 } 6 := by decide
theorem witness_StepRunsDecodedRequest :
    (Ready (inFlight 7#128 1) ∧ (inFlight 7#128 1).pins.rst = false ∧ (inFlight 7#128 1).phase = .inFlight 7#128 1 ∧
      decode 7#128 = .instr .readSession) ∧
    State.reset.cfg.wf = true ∧ decodeTableWord 8 7 = some .readSession := by decide
theorem witness_AcceptingEdge :
    Ready { State.reset with inputs := [⟨false, true, 7#128, false⟩] } ∧
    { State.reset with inputs := [⟨false, true, 7#128, false⟩] }.pins.reqValid = true ∧
    { State.reset with inputs := [⟨false, true, 7#128, false⟩] }.phase = .idle ∧
    Ready State.reset ∧ State.reset.pins.rst = false ∧ State.reset.pins.reqValid = false := by decide
theorem witness_BusyBlockIgnoresRequests :
    (inFlight 7#128 1).busy = true ∧ { State.reset with phase := .responding }.busy = true ∧
    (⟨false, true, 7#128, true⟩ : Pins).rst = (⟨false, false, 0, true⟩ : Pins).rst ∧
    (⟨false, true, 7#128, true⟩ : Pins).rspReady = (⟨false, false, 0, true⟩ : Pins).rspReady := by decide
theorem witness_ResponseHeldThenConsumed :
    Ready { State.reset with phase := .responding } ∧ { State.reset with phase := .responding }.pins.rspReady = false ∧
    { State.reset with inputs := [⟨false, false, 0, true⟩] }.pins.rst = false ∧
    { State.reset with inputs := [⟨false, false, 0, true⟩] }.pins.rspReady = true := by decide
theorem witness_NoEffectBeforeResponse :
    Ready (inFlight 7#128 (0 + 2)) ∧ (inFlight 7#128 2).pins.rst = false ∧
    (inFlight 7#128 2).phase = .inFlight 7#128 (0 + 2) := by decide
theorem witness_ResetEdge :
    { inFlight 7#128 1 with inputs := [⟨true, true, 7#128, true⟩] }.cfg.wf = true ∧
    { inFlight 7#128 1 with inputs := [⟨true, true, 7#128, true⟩] }.pins.rst = true := by decide
theorem witness_NoStepBeforeFirstReset :
    { State.reset with resetSeen := false }.cfg.wf = true ∧ { State.reset with resetSeen := false }.resetSeen = false ∧
    { State.reset with resetSeen := false }.pins.rst = false ∧
    { State.reset with resetSeen := false, inputs := [⟨true, false, 0, false⟩] }.pins.rst = true := by decide
/-- One word for each check of R88; the ends of the reserved bit ranges. -/
theorem witness_BadCatalogRefused :
    ((0x2#64).getLsbD 0 = false ∧ (0x2#64 : CatWord) ≠ 0#64) ∧
    (∀ k ∈ [3, 7, 56, 63], (1#64 ||| (1#64 <<< k)).getLsbD k = true) ∧
    ((0x0000160100070001#64).getLsbD 1 = false ∧ (0x0000160100070001#64).extractLsb' 32 8 ≠ 0#8) ∧
    ((0x0001160000070001#64).getLsbD 2 = false ∧ (0x0001160000070001#64).extractLsb' 48 8 ≠ 0#8) ∧
    ((0x0000000405070003#64).getLsbD 1 = true ∧
      (0x0000000405070003#64).extractLsb' 32 8 < (0x0000000405070003#64).extractLsb' 24 8) ∧
    ((0x0004050000070005#64).getLsbD 2 = true ∧
      (0x0004050000070005#64).extractLsb' 48 8 < (0x0004050000070005#64).extractLsb' 40 8) ∧
    ((CatalogOp.gotoZeroPan, (3 : Byte)) ∈ Config.default.names ∧ (0x0000170000070001#64 : CatWord) ≠ 0x0000160000070001#64) ∧
    (0x2#64 : CatWord) = Memory.read (oneEntry 3 0x2#64).cat 3 := by decide
theorem witness_BadResetSpeedRefused :
    (0x3F < (0x40 : Byte).toNat ∧ (0x40 : Byte).toNat ≠ 0xFF) ∧ (0x3F < (0xFE : Byte).toNat ∧ (0xFE : Byte).toNat ≠ 0xFF) ∧
    { Config.default with stickyResetPan := some 0x40 }.stickyResetPan = some 0x40 ∧
    { Config.default with stickyResetTilt := some 0xFE }.stickyResetTilt = some 0xFE := by decide
theorem witness_StepKeepsInvariant :
    Inv (inFlight 0x000000000000003F000000FFD6A50103#128 1) ∧
    ∃ t, step (inFlight 0x000000000000003F000000FFD6A50103#128 1) = .next t := ⟨by decide, _, rfl⟩
/-- Before the first reset, with a response waiting. -/
theorem witness_ResetMeetsInvariant :
    { State.reset with resetSeen := false, phase := .responding, inputs := [⟨true, true, 7#128, true⟩] }.cfg.wf = true ∧
    { State.reset with resetSeen := false, phase := .responding, inputs := [⟨true, true, 7#128, true⟩] }.pins.rst = true := by
  decide
theorem witness_StepKeepsConfiguration : ∃ t, step { State.reset with inputs := [⟨true, true, 7#128, true⟩] } = .next t :=
  ⟨_, rfl⟩
theorem witness_OperationFrame :
    (∃ t, exec .readSession State.reset = .next t) ∧ (∃ t, exec (.buildStd 1 still true true 0 0x3F) State.reset = .next t) ∧
    ∀ addr m psp tsp ps ts, Instr.readSession ≠ .buildStd addr m psp tsp ps ts :=
  ⟨⟨_, rfl⟩, ⟨_, rfl⟩, by intros; exact Instr.noConfusion⟩
theorem witness_OnlyStandardCommandsWriteSpeeds :
    ∃ t, step (inFlight 0x000000000000003F000000FFD6A50103#128 1) = .next t ∧
      (inFlight 0x000000000000003F000000FFD6A50103#128 1).pins.rst = false ∧
      t.stickyPan ≠ (inFlight 0x000000000000003F000000FFD6A50103#128 1).stickyPan :=
  ⟨_, rfl, by decide, by decide⟩
theorem witness_ErrorWritesOnlyCodeAndInfo :
    ∃ t, runRequest 0x103#128 State.reset = .next t ∧ 2 ≤ t.rsp.code.toNat := ⟨_, rfl, by decide⟩
/-- A request for each clause: codes 3, 4, 5, 7, 8, 11 and one of the others. -/
theorem witness_ListedCodesAndInfos :
    (resp 0x040102#128 State.reset).map (·.code) = some 3 ∧
    (resp 0x00000000000000000000000002040102#128 State.reset).map (·.code) = some 4 ∧
    (resp 0x00000000000000170000000002030102#128 State.reset).map (·.code) = some 5 ∧
    (resp 0x103#128 State.reset).map (·.code) = some 7 ∧ (resp 0xFF14#128 State.reset).map (·.code) = some 8 ∧
    (resp 0x17#128 State.reset).map (·.code) = some 11 ∧ (resp 0x24000103#128 State.reset).map (·.code) = some 6 := by
  decide
theorem witness_FrameEmittedExactlyWhenOk :
    (∃ t, runRequest 0x00000000000000000000002002000101#128 State.reset = .next t ∧ t.rsp.txLen = 7#3) ∧
    (∃ t, runRequest 7#128 State.reset = .next t ∧ t.rsp.txLen ≠ 7#3) :=
  ⟨⟨_, rfl, by decide⟩, ⟨_, rfl, by decide⟩⟩
theorem witness_OperationSeesNoEarlierOutcome :
    State.reset.cfg = { State.reset with rsp := { Response.zero with code := 9 }, phase := .responding }.cfg ∧
    State.reset.stickyPan = { State.reset with rsp := { Response.zero with code := 9 }, phase := .responding }.stickyPan ∧
    State.reset.stickyTilt = { State.reset with rsp := { Response.zero with code := 9 }, phase := .responding }.stickyTilt :=
  ⟨rfl, rfl, rfl⟩
theorem witness_OperationsAreIdempotent : ∃ t, exec (.buildStd 1 still true true 0 0x3F) State.reset = .next t := ⟨_, rfl⟩
theorem witness_AddressIsNotInterpreted :
    (∃ t, exec (.encode 1 2 3 4 5) State.reset = .next t) ∧
    (∃ t, exec (.issueExt 1 3 false false 0 0) State.reset = .next t ∧ t.rsp.txLen = 7#3) ∧
    (∃ t, exec (.buildStd 1 still true true 0 0) State.reset = .next t ∧ t.rsp.txLen = 7#3) :=
  ⟨⟨_, rfl⟩, ⟨_, rfl, by decide⟩, ⟨_, rfl, by decide⟩⟩
theorem witness_DecodeCmdOutcome : 0 ≤ 7 ∧ 6 ≤ 7 ∧ 7 ≤ 7 := by decide
theorem witness_AlarmVectorBits :
    ∃ t, exec (.decodeStatus 4 ⟨0xFF, 0x02, 0x80, 0x82, 0, 0, 0⟩) State.reset = .next t ∧ t.rsp.code = 0#4 ∧
      t.rsp.dAlarm.getLsbD (8 - 1) = true ∧ t.rsp.dAlarm.getLsbD (1 - 1) = false := ⟨_, rfl, by decide⟩
theorem witness_OneChangedByteIsCaught :
    checkFrame 7 7 ⟨0xFF, 0x01, 0x00, 0x02, 0x20, 0x00, 0x23⟩ = .valid ∧
    checkFrame 4 4 ⟨0xFF, 0x02, 0x80, 0x82, 0, 0, 0⟩ = .valid ∧
    checkFrame 5 5 ⟨0xFF, 0x01, 0x12, 0x34, 0x47, 0, 0⟩ = .valid ∧
    byteAt ⟨0xFF, 0x01, 0x00, 0x02, 0x20, 0x00, 0x23⟩ 6 ≠ byteAt ⟨0xFF, 0x01, 0x00, 0x02, 0x20, 0x00, 0x24⟩ 6 ∧
    (∀ j, j < 7 → j ≠ 6 →
      byteAt ⟨0xFF, 0x01, 0x00, 0x02, 0x20, 0x00, 0x23⟩ j = byteAt ⟨0xFF, 0x01, 0x00, 0x02, 0x20, 0x00, 0x24⟩ j) := by
  decide
theorem witness_EncodeDecodeFrameRoundTrip : ∃ t, exec (.encode 0xFF 0xFF 0xFF 0xFF 0xFF) State.reset = .next t := ⟨_, rfl⟩
/-- The values 22 and 23 of a fixed slot; 0, 1, 8, 9 and 256 of the range [1, 8]. -/
theorem witness_ArgumentValidation :
    (22 : Arg).toNat = (22 : Byte).toNat ∧ (23 : Arg).toNat ≠ (22 : Byte).toNat ∧
    ((1 : Byte).toNat ≤ (1 : Arg).toNat ∧ (1 : Arg).toNat ≤ (8 : Byte).toNat) ∧
    ((1 : Byte).toNat ≤ (8 : Arg).toNat ∧ (8 : Arg).toNat ≤ (8 : Byte).toNat) ∧
    ¬((1 : Byte).toNat ≤ (0 : Arg).toNat ∧ (0 : Arg).toNat ≤ (8 : Byte).toNat) ∧
    ¬((1 : Byte).toNat ≤ (9 : Arg).toNat ∧ (9 : Arg).toNat ≤ (8 : Byte).toNat) ∧ 256 ≤ (256 : Arg).toNat := by decide
theorem witness_RangeBoundaries :
    (0 : Byte).toNat ≤ (255 : Byte).toNat ∧ (0 : Byte).toNat ≤ (0 : Byte).toNat ∧ (1 : Byte).toNat ≤ (8 : Byte).toNat := by
  decide
theorem witness_IssueExtEmitsFrame :
    0x0008010000090005#64 = Memory.read State.reset.cfg.cat (4 : Byte).toNat ∧ (0x0008010000090005#64).getLsbD 0 = true ∧
    validateArg (ArgSpec.ofFields ((0x0008010000090005#64).getLsbD 1) ((0x0008010000090005#64).extractLsb' 24 8)
      ((0x0008010000090005#64).extractLsb' 32 8)) false 0 = .ok 0 ∧
    validateArg (ArgSpec.ofFields ((0x0008010000090005#64).getLsbD 2) ((0x0008010000090005#64).extractLsb' 40 8)
      ((0x0008010000090005#64).extractLsb' 48 8)) true 8 = .ok 8 := ⟨rfl, rfl, rfl, rfl⟩
/-- Id 200 has no entry; WriteChar (id 9) has the ranges [0, 28] and [0, 127], so (29, -) fails in both slots and (28, -) in
the second only; SetAux (id 4) has the fixed byte 0 in slot 1, so (1, -) fails there. -/
theorem witness_IssueExtErrors :
    (Memory.read State.reset.cfg.cat (200 : Byte).toNat).getLsbD 0 = false ∧
    Memory.read State.reset.cfg.cat (9 : Byte).toNat = 0x007F001C00150007#64 ∧
    (0x007F001C00150007#64).getLsbD 0 = true ∧
    slotError ((0x007F001C00150007#64).getLsbD 1) ((0x007F001C00150007#64).extractLsb' 24 8)
      ((0x007F001C00150007#64).extractLsb' 32 8) true 29 = some 4 ∧
    slotError ((0x007F001C00150007#64).getLsbD 1) ((0x007F001C00150007#64).extractLsb' 24 8)
      ((0x007F001C00150007#64).extractLsb' 32 8) true 28 = none ∧
    slotError ((0x007F001C00150007#64).getLsbD 2) ((0x007F001C00150007#64).extractLsb' 40 8)
      ((0x007F001C00150007#64).extractLsb' 48 8) false 0 = some 3 ∧
    Memory.read State.reset.cfg.cat (4 : Byte).toNat = 0x0008010000090005#64 ∧
    slotError ((0x0008010000090005#64).getLsbD 1) ((0x0008010000090005#64).extractLsb' 24 8)
      ((0x0008010000090005#64).extractLsb' 32 8) true 1 = some 5 := by decide
theorem witness_GotoZeroPanFrame :
    State.reset.cfg.wf = true ∧ (CatalogOp.gotoZeroPan, (3 : Byte)) ∈ State.reset.cfg.names := by decide
theorem witness_SelectorRange :
    State.reset.cfg.cat = Config.default.cat ∧ (∀ id ∈ [4, 5, 7, 8, 11], (BitVec.ofNat 8 id).toNat ∈ [4, 5, 7, 8, 11]) ∧
    (1 ≤ (1 : Arg).toNat ∧ (1 : Arg).toNat ≤ 8) ∧ (1 ≤ (8 : Arg).toNat ∧ (8 : Arg).toNat ≤ 8) ∧ (0 : Arg).toNat = 0 ∧
    9 ≤ (9 : Arg).toNat := by decide
/-- The first and the last of the seven fields. -/
theorem witness_ReservedIntentField :
    ([Tri.reserved, .none, .none, .none, .none, .none, .reserved][0]? = some .reserved ∧
      ∀ j, j < 0 → [Tri.reserved, .none, .none, .none, .none, .none, .reserved][j]? ≠ some .reserved) ∧
    ([Tri.none, .first, .second, .none, .none, .none, .reserved][6]? = some .reserved ∧
      ∀ j, j < 6 → [Tri.none, .first, .second, .none, .none, .none, .reserved][j]? ≠ some .reserved) := by decide
theorem witness_IllegalModeCombination :
    (∀ f ∈ [Tri.none, .none, .none, .none, .none, .first, .second], f ≠ .reserved) ∧
    (∃ t, exec (.buildStd 1 { still with scan := .first, cam := .second } false false 0 0) State.reset = .next t ∧
      t.rsp.code = 6#4) ∧
    (∃ t, exec (.buildStd 1 { still with scan := .second, cam := .first } false false 0 0) State.reset = .next t ∧
      t.rsp.code = 6#4) ∧
    (∃ t, exec (.buildStd 1 { still with scan := .first, cam := .first } false false 0 0) State.reset = .next t ∧
      t.rsp.code ≠ 6#4) :=
  ⟨by decide, ⟨_, rfl, by decide⟩, ⟨_, rfl, by decide⟩, ⟨_, rfl, by decide⟩⟩
/-- The four clauses: nothing written, pan 0x40, pan 0x3F and no tilt, pan 0xFF and tilt 0xFE. -/
theorem witness_SpeedCheckOrder :
    (∀ f ∈ [still.pan, still.tilt, still.iris, still.focus, still.zoom, still.scan, still.cam], f ≠ .reserved) ∧
    ¬(still.scan = .second ∧ still.cam = .first) ∧ ¬(still.scan = .first ∧ still.cam = .second) ∧
    (none : Option Arg) = (if false then some 0 else State.reset.stickyPan.map (·.setWidth 32)) ∧
    (some 0x40 : Option Arg) = (if true then some 0x40 else State.reset.stickyPan.map (·.setWidth 32)) ∧
    (0x3F < (0x40 : Arg).toNat ∧ (0x40 : Arg).toNat ≠ 0xFF) ∧ ((0x3F : Arg).toNat ≤ 0x3F ∨ (0x3F : Arg).toNat = 0xFF) ∧
    ((0xFF : Arg).toNat ≤ 0x3F ∨ (0xFF : Arg).toNat = 0xFF) ∧ (0x3F < (0xFE : Arg).toNat ∧ (0xFE : Arg).toNat ≠ 0xFF) ∧
    (none : Option Arg) = (if false then some 0 else State.reset.stickyTilt.map (·.setWidth 32)) := by decide
theorem witness_SpeedRange : stickyLegal (some 0x3F) = true ∧ stickyLegal (some 0xFF) = true := by decide
/-- Pan given as turbo, tilt sticky. -/
theorem witness_BuildStdEmitsFrame :
    (∀ f ∈ [Tri.first, .second, .none, .first, .second, .first, .first], f ≠ .reserved) ∧
    ¬(Tri.first = .second ∧ Tri.first = .first) ∧ ¬(Tri.first = .first ∧ Tri.first = .second) ∧
    (true = true → (0xFF : Arg).toNat = (0xFF : Byte).toNat) ∧
    (false = false → (withSpeeds none (some 0x3F)).stickyTilt = some 0x3F) ∧
    ((0xFF : Byte).toNat ≤ 0x3F ∨ (0xFF : Byte).toNat = 0xFF) ∧ ((0x3F : Byte).toNat ≤ 0x3F ∨ (0x3F : Byte).toNat = 0xFF) := by
  decide
theorem witness_StickyCommit :
    (∃ t, exec (.buildStd 1 still true false 0x3F 0) (withSpeeds none (some 0)) = .next t ∧ t.rsp.code = 0#4) ∧
    (∃ t, exec (.buildStd 1 still true false 0x3F 0) State.reset = .next t ∧ t.rsp.code ≠ 0#4) :=
  ⟨⟨_, rfl, by decide⟩, ⟨_, rfl, by decide⟩⟩
/-- Pan omitted, tilt given. -/
theorem witness_StopFrame :
    (false = false → (withSpeeds (some 0xFF) none).stickyPan = some 0xFF) ∧ (true = true → (0x3F : Arg).toNat = (0x3F : Byte).toNat) ∧
    ((0xFF : Byte).toNat ≤ 0x3F ∨ (0xFF : Byte).toNat = 0xFF) ∧ ((0x3F : Byte).toNat ≤ 0x3F ∨ (0x3F : Byte).toNat = 0xFF) := by
  decide
theorem witness_ReadSessionReads :
    (withSpeeds none (some 0x3F)).stickyPan = none ∧ (withSpeeds none (some 0x3F)).stickyTilt = some 0x3F ∧
    opField 0x17#128 = 0x7#4 ∧ (0x17#128 : ReqWord) ≠ 0x7#128 := by decide
theorem witness_EveryAcceptedRequestIsAnswered :
    Ready (inFlight 7#128 3) ∧ (inFlight 7#128 3).phase = .inFlight 7#128 3 ∧ 1 ≤ 3 ∧
    ∀ p ∈ (inFlight 7#128 3).inputs.take 3, p.rst = false := by decide
/-- With as many quiet edges as the free latency asks for. -/
theorem witness_EdgesRefineTransaction :
    ∃ (s : State) (p c : Pins) (waits rest : List Pins), Ready s ∧ s.phase = .idle ∧ s.inputs = p :: (waits ++ c :: rest) ∧
      p.rst = false ∧ p.reqValid = true ∧ waits.length = Config.latency s.accepted ∧ (∀ q ∈ waits, q.rst = false) ∧
      c.rst = false ∧ c.rspReady = true := by
  refine ⟨{ State.reset with
      inputs := ⟨false, true, 7#128, false⟩ ::
        (List.replicate (Config.latency 0) Pins.quiet ++ ⟨false, false, 0, true⟩ :: []) },
    _, _, _, _, ⟨test_config_default, rfl⟩, rfl, rfl, rfl, rfl, List.length_replicate, ?_, rfl, rfl⟩
  intro q hq
  rw [List.eq_of_mem_replicate hq]
  rfl
theorem witness_OnlySpeedsPassBetweenRequests :
    (∀ w ∈ [7#128, 0x102#128], opField w ≠ 0x3#4) ∧ (withSpeeds none none).cfg = State.reset.cfg ∧
    { State.reset with rsp := { Response.zero with code := 9 } }.stickyPan = State.reset.stickyPan ∧
    { State.reset with rsp := { Response.zero with code := 9 } }.stickyTilt = State.reset.stickyTilt := by
  refine ⟨?_, rfl, rfl, rfl⟩
  intro w hw
  rw [List.mem_cons, List.mem_singleton] at hw
  rcases hw with rfl | rfl <;> decide
theorem witness_AssemblerIsFaithful :
    (ExtId.num 3 = .num 3 ∧ Config.default.idOf .callPreset = some 2) ∧
    { Config.default with names := [] }.idOf .setAux = none ∧
    ([0xFF] : List Byte).length ≤ 7 ∧ ([1, 2, 3, 4, 5, 6, 7] : List Byte).length ≤ 7 ∧
    7 < ([1, 2, 3, 4, 5, 6, 7, 8] : List Byte).length ∧
    assemble Config.default (.dcmd [0xFF]) = some (.decodeCmd 1 ⟨0xFF, 0, 0, 0, 0, 0, 0⟩) := by decide
theorem witness_BootReadyHoldsEveryOperation :
    Config.default.bootReady = true ∧ CatalogOp.setPreset ∈ requiredOps ∧ CatalogOp.gainBank1 ∈ requiredOps := by decide

end Sys2Proof.Tests
end

section
/-! SUPPORT. Request decoding seen from the bits of the word: when a field of a word is 0, which words have a
reserved op and which a reserved bit, and what each op value reads as (R70-R79). -/

namespace Sys2Proof

open Sys2Proof.Machine

/-- The op value is 0x0 or 0x8..0xF (R72). -/
abbrev HasReservedOp (w : ReqWord) : Prop := opField w = 0x0#4 ∨ 0x8 ≤ (opField w).toNat

/-- Some reserved bit of the word's format is 1 (R73). -/
abbrev HasReservedBit (w : ReqWord) : Prop := ∃ k, reservedPos (opField w).toNat k = true ∧ w.getLsbD k = true

/-- A field of `len + 1` bits is not 0 exactly when one of its bits is 1. -/
theorem extract_ne_zero_iff {N : Nat} (w : BitVec N) (lo len : Nat) :
    w.extractLsb' lo (len + 1) ≠ 0#(len + 1) ↔ ∃ k, (lo ≤ k ∧ k ≤ lo + len) ∧ w.getLsbD k = true := by
  constructor
  · intro h
    by_contra hno
    refine h (BitVec.eq_of_getLsbD_eq fun j hj => ?_)
    have hbit : w.getLsbD (lo + j) = false :=
      Bool.eq_false_iff.mpr fun hj1 => hno ⟨lo + j, ⟨by omega, by omega⟩, hj1⟩
    simp [hbit]
  · rintro ⟨k, ⟨hlo, hhi⟩, hk⟩ h
    have hbit : (w.extractLsb' lo (len + 1)).getLsbD (k - lo) = true := by
      rw [BitVec.getLsbD_extractLsb', Nat.add_sub_cancel' hlo, hk, decide_eq_true (by omega)]
      rfl
    rw [h, BitVec.getLsbD_zero] at hbit
    exact Bool.noConfusion hbit

theorem reservedR_iff (w : ReqWord) : reservedR w = true ↔ ∃ k, reservedPos 1 k = true ∧ w.getLsbD k = true := by
  simp only [reservedR, reservedPos, Bool.or_eq_true, decide_eq_true_eq, extract_ne_zero_iff, or_and_right, exists_or]

theorem reservedX_iff (w : ReqWord) : reservedX w = true ↔ ∃ k, reservedPos 2 k = true ∧ w.getLsbD k = true := by
  simp only [reservedX, reservedPos, Bool.or_eq_true, decide_eq_true_eq, extract_ne_zero_iff, or_and_right, exists_or]

theorem reservedS_iff (w : ReqWord) : reservedS w = true ↔ ∃ k, reservedPos 3 k = true ∧ w.getLsbD k = true := by
  simp only [reservedS, reservedPos, Bool.or_eq_true, decide_eq_true_eq, extract_ne_zero_iff, or_and_right, exists_or]

/-- The three operations of format D share its reserved bits; here they are those of op 0x4. -/
theorem reservedD_iff (w : ReqWord) : reservedD w = true ↔ ∃ k, reservedPos 4 k = true ∧ w.getLsbD k = true := by
  have hbit7 : ∀ k, (7 ≤ k ∧ k ≤ 7 + 0) ↔ k = 7 := fun k => by omega
  simp only [reservedD, reservedPos, Bool.or_eq_true, decide_eq_true_eq, extract_ne_zero_iff, or_and_right, exists_or,
    hbit7]

theorem reservedN_iff (w : ReqWord) : reservedN w = true ↔ ∃ k, reservedPos 7 k = true ∧ w.getLsbD k = true := by
  simp only [reservedN, reservedPos, decide_eq_true_eq, extract_ne_zero_iff]

/-- The op values (R70, R72). -/
theorem opField_cases (w : ReqWord) :
    HasReservedOp w ∨ opField w = 0x1#4 ∨ opField w = 0x2#4 ∨ opField w = 0x3#4 ∨ opField w = 0x4#4 ∨
      opField w = 0x5#4 ∨ opField w = 0x6#4 ∨ opField w = 0x7#4 := by
  unfold HasReservedOp
  generalize opField w = op
  revert op
  decide

theorem decode_of_reservedOp (w : ReqWord) (h : HasReservedOp w) : decode w = .reject .reservedOp := by
  have h' : (opField w).toNat = 0 ∨ 8 ≤ (opField w).toNat := h.imp_left (congrArg BitVec.toNat)
  unfold decode
  split
  case h_8 => rfl
  all_goals omega

theorem decode_of_encodeOp (w : ReqWord) (h : opField w = 0x1#4) :
    decode w = unlessReserved (reservedR w) (.encode (w.extractLsb' 8 8) (w.extractLsb' 16 8) (w.extractLsb' 24 8)
      (w.extractLsb' 32 8) (w.extractLsb' 40 8)) := by
  rw [decode, h]; rfl

theorem decode_of_issueExtOp (w : ReqWord) (h : opField w = 0x2#4) :
    decode w = unlessReserved (reservedX w) (.issueExt (w.extractLsb' 8 8) (w.extractLsb' 16 8) (w.getLsbD 24)
      (w.getLsbD 25) (w.extractLsb' 32 32) (w.extractLsb' 64 32)) := by
  rw [decode, h]; rfl

theorem decode_of_buildStdOp (w : ReqWord) (h : opField w = 0x3#4) :
    decode w = unlessReserved (reservedS w) (.buildStd (w.extractLsb' 8 8) (intentOf w) (w.getLsbD 30) (w.getLsbD 31)
      (w.extractLsb' 32 32) (w.extractLsb' 64 32)) := by
  rw [decode, h]; rfl

theorem decode_of_decodeCmdOp (w : ReqWord) (h : opField w = 0x4#4) :
    decode w = unlessReserved (reservedD w) (.decodeCmd (countOf w) (rxOf w)) := by
  rw [decode, h]; rfl

theorem decode_of_decodeStatusOp (w : ReqWord) (h : opField w = 0x5#4) :
    decode w = unlessReserved (reservedD w) (.decodeStatus (countOf w) (rxOf w)) := by
  rw [decode, h]; rfl

theorem decode_of_decodeQueryOp (w : ReqWord) (h : opField w = 0x6#4) :
    decode w = unlessReserved (reservedD w) (.decodeQuery (countOf w) (rxOf w)) := by
  rw [decode, h]; rfl

theorem decode_of_readSessionOp (w : ReqWord) (h : opField w = 0x7#4) :
    decode w = unlessReserved (reservedN w) .readSession := by
  rw [decode, h]; rfl

theorem unlessReserved_ne_reservedOp (bad : Bool) (i : Instr) : unlessReserved bad i ≠ .reject .reservedOp := by
  cases bad <;> simp [unlessReserved]

/-- A word whose op is not reserved is rejected for a reserved bit of its format and for nothing else (R71). -/
theorem decode_eq_unlessReserved (w : ReqWord) (h : ¬HasReservedOp w) :
    ∃ bad i, decode w = unlessReserved bad i ∧ (bad = true ↔ HasReservedBit w) := by
  unfold HasReservedBit
  rcases (opField_cases w).resolve_left h with h | h | h | h | h | h | h
  · exact ⟨_, _, decode_of_encodeOp w h, by rw [h]; exact reservedR_iff w⟩
  · exact ⟨_, _, decode_of_issueExtOp w h, by rw [h]; exact reservedX_iff w⟩
  · exact ⟨_, _, decode_of_buildStdOp w h, by rw [h]; exact reservedS_iff w⟩
  · exact ⟨_, _, decode_of_decodeCmdOp w h, by rw [h]; exact reservedD_iff w⟩
  · exact ⟨_, _, decode_of_decodeStatusOp w h, by rw [h]; exact reservedD_iff w⟩
  · exact ⟨_, _, decode_of_decodeQueryOp w h, by rw [h]; exact reservedD_iff w⟩
  · exact ⟨_, _, decode_of_readSessionOp w h, by rw [h]; exact reservedN_iff w⟩

/-- Exactly the words with a reserved op are rejected for their op (R72). -/
theorem decode_eq_reservedOp_iff (w : ReqWord) : decode w = .reject .reservedOp ↔ HasReservedOp w := by
  refine ⟨fun hd => by_contra fun h => ?_, decode_of_reservedOp w⟩
  obtain ⟨bad, i, he, -⟩ := decode_eq_unlessReserved w h
  exact unlessReserved_ne_reservedOp bad i (he.symm.trans hd)

theorem decode_of_reservedBit (w : ReqWord) (hop : ¬HasReservedOp w) (hbit : HasReservedBit w) :
    decode w = .reject .reservedBit := by
  obtain ⟨bad, i, hd, hbad⟩ := decode_eq_unlessReserved w hop
  rw [hd, hbad.mpr hbit]
  rfl

theorem decode_of_noReserved (w : ReqWord) (hop : ¬HasReservedOp w) (hbit : ¬HasReservedBit w) :
    ∃ i, decode w = .instr i := by
  obtain ⟨bad, i, hd, hbad⟩ := decode_eq_unlessReserved w hop
  rw [hd, Bool.eq_false_iff.mpr (mt hbad.mp hbit)]
  exact ⟨i, rfl⟩

/-- Step 2 of R71 passed: where no reserved bit is 1, a word that is `unlessReserved bad i` reads as `i`. -/
theorem decode_eq_instr (w : ReqWord) (bad : Bool) (i : Instr) (op : Nat) (hop : (opField w).toNat = op)
    (hd : decode w = unlessReserved bad i)
    (hbad : bad = true ↔ ∃ k, reservedPos op k = true ∧ w.getLsbD k = true)
    (hclear : ∀ k, reservedPos (opField w).toNat k = true → w.getLsbD k = false) : decode w = .instr i := by
  have : bad = false := Bool.eq_false_iff.mpr fun hb => by
    obtain ⟨k, hk, hw⟩ := hbad.mp hb
    rw [hclear k (hop ▸ hk)] at hw
    exact Bool.noConfusion hw
  rw [hd, this]
  rfl

/-- The code of a tri-state as a place in the list of R80. -/
theorem triOfBits_eq_getElem (b : BitVec 2) :
    some (triOfBits b) = [Tri.none, .first, .second, .reserved][b.toNat]? := by
  revert b
  decide

/-- The byte count is bits 6:4 of the request word's number (R78). -/
theorem countOf_eq (w : ReqWord) : countOf w = w.toNat / 16 % 8 := by
  simp [countOf, BitVec.extractLsb'_toNat, Nat.shiftRight_eq_div_pow]

theorem byteAt_rxOf (w : ReqWord) (k : Nat) (hk : k < 7) : byteAt (rxOf w) k = w.extractLsb' (8 + 8 * k) 8 := by
  interval_cases k <;> rfl

/-- Field `j` of the intent is at bits `17 + 2j : 16 + 2j` (R81). -/
theorem intentOf_getElem (w : ReqWord) (j : Nat) (hj : j < 7) :
    [(intentOf w).pan, (intentOf w).tilt, (intentOf w).iris, (intentOf w).focus, (intentOf w).zoom, (intentOf w).scan,
      (intentOf w).cam][j]? = some (triOfBits (w.extractLsb' (16 + 2 * j) 2)) := by
  interval_cases j <;> rfl

end Sys2Proof
end

section
/-! The obligations of request decoding: R71, R72, and the fields of R74-R81. -/

namespace Sys2Proof.Machine

/-- A rejected word raises ReservedEncoding and writes nothing else (R72, R73). -/
theorem runRequest_of_reject (w : ReqWord) (r : DecodeReject) (s : State) (h : decode w = .reject r) :
    runRequest w s =
      .next { s with rsp := { Response.zero with code := 11, info := rejectInfo r }, phase := .responding } := by
  rw [runRequest, h]
  rfl

theorem runRequest_of_instr (w : ReqWord) (i : Instr) (s : State) (h : decode w = .instr i) :
    runRequest w s = exec i s := by
  rw [runRequest, h]

/-- Settles O4: the other op values give `unlessReserved`, which never rejects for the op. -/
theorem reservedOpRaises : Obligations.ReservedOpRaises := fun w s =>
  ⟨decode_eq_reservedOp_iff w, fun h => runRequest_of_reject w .reservedOp s (decode_of_reservedOp w h)⟩

/-- Settles O5: the three outcomes of `decode`, with the reserved bits as positions in the word. -/
theorem requestDecodingOrder : Obligations.RequestDecodingOrder := by
  intro w s
  refine ⟨fun hop => ?_, fun hop => ⟨fun hbit => ?_, fun hclear => ?_⟩⟩
  · exact runRequest_of_reject w .reservedOp s (decode_of_reservedOp w hop)
  · exact runRequest_of_reject w .reservedBit s (decode_of_reservedBit w hop hbit)
  · have hbit : ¬HasReservedBit w := fun ⟨k, hk, hw⟩ => by simp [hclear k hk] at hw
    obtain ⟨i, hi⟩ := decode_of_noReserved w hop hbit
    exact ⟨i, hi, runRequest_of_instr w i s hi⟩

/-- Settles O6: each op's reading with its reserved bits clear, and the places of the tri-states and received bytes. -/
theorem requestFields : Obligations.RequestFields := by
  intro w hclear
  refine ⟨fun h => ?_, fun h => ?_, fun h => ?_, fun _ _ => ?_, fun h => ?_⟩
  · exact decode_eq_instr w _ _ 1 (by rw [h]; rfl) (decode_of_encodeOp w h) (reservedR_iff w) hclear
  · exact decode_eq_instr w _ _ 2 (by rw [h]; rfl) (decode_of_issueExtOp w h) (reservedX_iff w) hclear
  · refine ⟨intentOf w, ?_, fun j hj => ?_⟩
    · exact decode_eq_instr w _ _ 3 (by rw [h]; rfl) (decode_of_buildStdOp w h) (reservedS_iff w) hclear
    · rw [intentOf_getElem w j hj, triOfBits_eq_getElem]
  · refine ⟨countOf w, rxOf w, countOf_eq w, byteAt_rxOf w, fun h => ?_, fun h => ?_, fun h => ?_⟩
    · exact decode_eq_instr w _ _ 4 (by rw [h]; rfl) (decode_of_decodeCmdOp w h) (reservedD_iff w) hclear
    · exact decode_eq_instr w _ _ 5 (by rw [h]; rfl) (decode_of_decodeStatusOp w h) (reservedD_iff w) hclear
    · exact decode_eq_instr w _ _ 6 (by rw [h]; rfl) (decode_of_decodeQueryOp w h) (reservedD_iff w) hclear
  · exact decode_eq_instr w _ _ 7 (by rw [h]; rfl) (decode_of_readSessionOp w h) (reservedN_iff w) hclear

end Sys2Proof.Machine
end

section
/-! The address of a request: an operation that carries one either raises the same error at every address or emits a
frame that holds it in byte 1 (R84). -/

namespace Sys2Proof.Machine

/-- The outcome `f a` of a request with address `a` shows the address in an emitted frame and nowhere else. -/
def AddressOnlyInFrame (f : Byte → Host.Outcome State Fault Refusal) : Prop :=
  (∃ c info u, ∀ a, f a = raise c info u) ∨
  (∃ c1 c2 d1 d2 u, ∀ a, f a = finish .ok (emitFrame a c1 c2 d1 d2) u)

/-- The checksum moves by the difference of the addresses (R84, R90). -/
theorem sum8_readdress (a a' : Byte) (bs : List Byte) : sum8 (a :: bs) - a + a' = sum8 (a' :: bs) := by
  rw [sum8_cons, sum8_cons, BitVec.add_comm a, BitVec.add_sub_cancel, BitVec.add_comm]

theorem AddressOnlyInFrame.readdress {f : Byte → Host.Outcome State Fault Refusal} (hf : AddressOnlyInFrame f)
    (a a' : Byte) (t : State) (h : f a = .next t) : f a' = .next { t with rsp := readdress a a' t.rsp } := by
  obtain ⟨c, info, u, hr⟩ | ⟨c1, c2, d1, d2, u, he⟩ := hf
  · rw [hr, raise_next] at h ⊢
    rw [h]
    rfl
  · rw [he, finish_next] at h ⊢
    rw [h, emitFrame, emitFrame, ← sum8_readdress a a']
    rfl

theorem encode_addressOnlyInFrame (c1 c2 d1 d2 : Byte) (s : State) :
    AddressOnlyInFrame fun a => exec (.encode a c1 c2 d1 d2) s :=
  .inr ⟨c1, c2, d1, d2, s, fun _ => rfl⟩

/-- The lookup and both validations of ISSUE_EXT do not read the address. -/
theorem issueExt_addressOnlyInFrame (cmdId : Byte) (p1 p2 : Bool) (x1 x2 : Arg) (s : State) :
    AddressOnlyInFrame fun a => exec (.issueExt a cmdId p1 p2 x1 x2) s := by
  rcases execIssueExt_cases 0 cmdId p1 p2 x1 x2 s with
    ⟨hv, -⟩ | ⟨c, hv, h1, -⟩ | ⟨r, c, hv, h1, h2, -⟩ | ⟨r, q, hv, h1, h2, -⟩
  · exact .inl ⟨.unknownCommand, 0, s, fun a => by simp only [exec, execIssueExt, hv, if_true]⟩
  · exact .inl ⟨c, 1, s, fun a => by simp [exec, execIssueExt, hv, h1]⟩
  · exact .inl ⟨c, 2, s, fun a => by simp [exec, execIssueExt, hv, h1, h2]⟩
  · exact .inr ⟨(entryAt s cmdId).word3, (entryAt s cmdId).word4, r, q, s, fun a => by
      simp [exec, execIssueExt, hv, h1, h2]⟩

/-- The checks of BUILD_STD do not read the address. -/
theorem buildStd_addressOnlyInFrame (m : Intent) (p1 p2 : Bool) (x1 x2 : Arg) (s : State) :
    AddressOnlyInFrame fun a => exec (.buildStd a m p1 p2 x1 x2) s := by
  rcases execBuildStd_cases 0 m p1 p2 x1 x2 s with
    ⟨k, hi, -⟩ | ⟨mo, hi, hm, -⟩ | ⟨mo, x, i, hi, hm, hp, -⟩ | ⟨mo, x, p, i, hi, hm, hp, ht, -⟩ |
      ⟨mo, x, p, q, hi, hm, hp, ht, -⟩
  · exact .inl ⟨.reservedEncoding, k, s, fun a => by simp only [exec, execBuildStd, hi]⟩
  · exact .inl ⟨.illegalModeCombination, 0, s, fun a => by simp only [exec, execBuildStd, hi, hm]⟩
  · exact .inl ⟨.invalidSpeed, i, s, fun a => by simp only [exec, execBuildStd, hi, hm, hp]⟩
  · exact .inl ⟨.invalidSpeed, i, s, fun a => by simp only [exec, execBuildStd, hi, hm, hp, ht]⟩
  · exact .inr ⟨packCmd1 x.1 x.2 mo, packCmd2 mo, p, q, s.commitSpeeds p q, fun a => by
      simp only [exec, execBuildStd, hi, hm, hp, ht]⟩

/-- Settles O31: none of the three operations looks at its address before the frame is built. -/
theorem addressIsNotInterpreted : Obligations.AddressIsNotInterpreted := fun a a' c1 c2 d1 d2 cmdId m p1 p2 x1 x2 s t =>
  ⟨(encode_addressOnlyInFrame c1 c2 d1 d2 s).readdress a a' t,
    (issueExt_addressOnlyInFrame cmdId p1 p2 x1 x2 s).readdress a a' t,
    (buildStd_addressOnlyInFrame m p1 p2 x1 x2 s).readdress a a' t⟩

end Sys2Proof.Machine
end

section
/-! The lowest intent field that holds 0b11 (R82). The fields are read one after the other, so a list of fields still to
be read is followed from its head. -/

namespace Sys2Proof.Machine

/-- Field `k` of the list, counted from 0, is the lowest that holds 0b11. -/
def LowestReserved (fs : List Tri) (k : Nat) : Prop :=
  fs[k]? = some .reserved ∧ ∀ j, j < k → fs[j]? ≠ some .reserved

theorem not_lowestReserved_nil (k : Nat) : ¬LowestReserved [] k := fun h => by simp [LowestReserved] at h

theorem lowestReserved_zero {t : Tri} {ts : List Tri} (h : LowestReserved (t :: ts) 0) : t = .reserved := by
  simpa using h.1

theorem lowestReserved_succ {t : Tri} {ts : List Tri} {k : Nat} (h : LowestReserved (t :: ts) (k + 1)) :
    t ≠ .reserved ∧ LowestReserved ts k := by
  obtain ⟨hk, hlow⟩ := h
  exact ⟨fun ht => hlow 0 k.succ_pos (by rw [ht]; rfl), hk, fun j hj => hlow (j + 1) (by omega)⟩

/-- Reading the field of index `n` and going on with `f`: the error is the index of the lowest reserved field, if it is
so for the fields that `f` reads, the first of which has index `n + 1`. -/
theorem readTri_bind_lowestReserved {α β : Type} (n : Nat) (a b : α) {t : Tri} {ts : List Tri}
    {f : Option α → Except (BitVec 4) β}
    (hf : ∀ x k, LowestReserved ts k → f x = .error (BitVec.ofNat 4 (n + 1 + k))) {k : Nat}
    (h : LowestReserved (t :: ts) k) :
    (readTri (BitVec.ofNat 4 n) a b t >>= f) = .error (BitVec.ofNat 4 (n + k)) := by
  cases k with
  | zero =>
    rw [lowestReserved_zero h]
    rfl
  | succ k =>
    obtain ⟨ht, hts⟩ := lowestReserved_succ h
    obtain ⟨x, hx⟩ := readTri_of_ne (BitVec.ofNat 4 n) a b t ht
    rw [hx, Nat.add_comm k 1, ← Nat.add_assoc]
    exact hf x k hts

/-- The error of `readIntent` is the index of the lowest field that holds 0b11 (R81, R82). -/
theorem readIntent_of_lowestReserved (m : Intent) (k : Nat)
    (h : LowestReserved [m.pan, m.tilt, m.iris, m.focus, m.zoom, m.scan, m.cam] k) :
    readIntent m = .error (BitVec.ofNat 4 (1 + k)) :=
  readTri_bind_lowestReserved 1 _ _ (fun _ _ h =>
    readTri_bind_lowestReserved 2 _ _ (fun _ _ h =>
      readTri_bind_lowestReserved 3 _ _ (fun _ _ h =>
        readTri_bind_lowestReserved 4 _ _ (fun _ _ h =>
          readTri_bind_lowestReserved 5 _ _ (fun _ _ h =>
            readTri_bind_lowestReserved 6 _ _ (fun _ _ h =>
              readTri_bind_lowestReserved 7 _ _ (fun _ k h => absurd h (not_lowestReserved_nil k)) h) h) h) h) h) h) h

/-- Settles O46: the intent is read before every other check of BUILD_STD. -/
theorem reservedIntentField : Obligations.ReservedIntentField := by
  intro addr m psp tsp ps ts s fs k hfs hk hlow
  subst hfs
  have hr : readIntent m = .error (BitVec.ofNat 4 (k + 1)) := by
    rw [Nat.add_comm]
    exact readIntent_of_lowestReserved m k ⟨hk, hlow⟩
  simp only [exec, execBuildStd, hr]
  rfl

end Sys2Proof.Machine
end

section
/-! The outcomes of ISSUE_EXT (R140-R148) as equations, one for each way it goes, and the obligations of the extended
commands. -/

namespace Sys2Proof.Machine

/-- A fixed slot's byte stands in for an absent argument (R143). -/
theorem validateArg_fixed_absent (b : Byte) (v : Arg) : validateArg (.fixed b) false v = .ok b := rfl

/-- A range slot has nothing to stand in for an absent argument (R144). -/
theorem validateArg_range_absent (lo hi : Byte) (v : Arg) :
    validateArg (.range lo hi) false v = .error .missingArgument := rfl

/-- A present argument outside the bounds of a range slot (R145). -/
theorem validateArg_range_outside (lo hi : Byte) (v : Arg) (h : ¬(lo.toNat ≤ v.toNat ∧ v.toNat ≤ hi.toNat)) :
    validateArg (.range lo hi) true v = .error .argumentOutOfRange := by
  rw [validateArg_range, if_neg h]

/-- A present argument inside the bounds of a range slot is below 256, so its low byte is the argument itself (R145). -/
theorem validateArg_range_inside (lo hi : Byte) (v : Arg) (h : lo.toNat ≤ v.toNat ∧ v.toNat ≤ hi.toNat) :
    ∃ r, validateArg (.range lo hi) true v = .ok r ∧ r.toNat = v.toNat := by
  have hv : v.toNat < 2 ^ 8 := h.2.trans_lt hi.isLt
  refine ⟨v.extractLsb' 0 8, by rw [validateArg_range, if_pos h], ?_⟩
  rw [BitVec.extractLsb'_toNat, Nat.shiftRight_zero, Nat.mod_eq_of_lt hv]

/-- Settles O39: a present argument is compared by number, so one from 256 on is above every upper bound. -/
theorem argumentValidation : Obligations.ArgumentValidation := by
  intro b lo hi v
  refine ⟨validateArg_fixed_absent b v, fun heq => ?_, fun hne => ?_, validateArg_range_absent lo hi v,
    validateArg_range_inside lo hi v, validateArg_range_outside lo hi v, fun hbig => ?_⟩
  · rw [validateArg_fixed, if_pos heq]
  · rw [validateArg_fixed, if_neg hne]
  · exact validateArg_range_outside lo hi v (by omega)

section
variable (addr cmdId : Byte) (p1 p2 : Bool) (x1 x2 : Arg) (s : State)

theorem issueExt_of_invalid (hv : (entryAt s cmdId).valid = false) :
    exec (.issueExt addr cmdId p1 p2 x1 x2) s = raise .unknownCommand 0 s := by
  rw [exec, execIssueExt, if_pos hv]

theorem issueExt_of_slot1_error (c : ResultCode) (hv : (entryAt s cmdId).valid = true)
    (h1 : validateArg (entryAt s cmdId).slot1 p1 x1 = .error c) :
    exec (.issueExt addr cmdId p1 p2 x1 x2) s = raise c 1 s := by
  simp [exec, execIssueExt, hv, h1]

theorem issueExt_of_slot2_error (r1 : Byte) (c : ResultCode) (hv : (entryAt s cmdId).valid = true)
    (h1 : validateArg (entryAt s cmdId).slot1 p1 x1 = .ok r1)
    (h2 : validateArg (entryAt s cmdId).slot2 p2 x2 = .error c) :
    exec (.issueExt addr cmdId p1 p2 x1 x2) s = raise c 2 s := by
  simp [exec, execIssueExt, hv, h1, h2]

theorem issueExt_of_ok (r1 r2 : Byte) (hv : (entryAt s cmdId).valid = true)
    (h1 : validateArg (entryAt s cmdId).slot1 p1 x1 = .ok r1)
    (h2 : validateArg (entryAt s cmdId).slot2 p2 x2 = .ok r2) :
    exec (.issueExt addr cmdId p1 p2 x1 x2) s =
      finish .ok (emitFrame addr (entryAt s cmdId).word3 (entryAt s cmdId).word4 r1 r2) s := by
  simp [exec, execIssueExt, hv, h1, h2]

end

/-- The checksum of a command frame as one sum of numbers (R10, R90). -/
theorem sum8_five (a c1 c2 d1 d2 : Byte) :
    sum8 [a, c1, c2, d1, d2] = BitVec.ofNat 8 (a.toNat + c1.toNat + c2.toNat + d1.toNat + d2.toNat) := by
  simp [sum8, Nat.add_assoc]

/-- The end of an operation that emits a frame: the complete next state (R11, R111). -/
theorem finish_emitFrame (a c1 c2 d1 d2 : Byte) (s : State) :
    finish .ok (emitFrame a c1 c2 d1 d2) s =
      .next { s with
        phase := .responding
        rsp := { Response.zero with
          txLen := 7
          tx := ⟨0xFF, a, c1, c2, d1, d2,
            BitVec.ofNat 8 (a.toNat + c1.toNat + c2.toNat + d1.toNat + d2.toNat)⟩ } } := by
  rw [emitFrame, sum8_five]
  rfl

/-- Settles O41: the entry's fields are those of the catalog word, and ISSUE_EXT ends with their frame. -/
theorem issueExtEmitsFrame : Obligations.IssueExtEmitsFrame := by
  intro addr cmdId r1 r2 p1 p2 x1 x2 s e he hvalid h1 h2
  subst he
  rw [issueExt_of_ok addr cmdId p1 p2 x1 x2 s r1 r2 hvalid h1 h2]
  exact finish_emitFrame _ _ _ _ _ s

/-- Settles O42: `slotError` is the number of the code that `ValidateArg` answers, and slot 1 is looked at first. -/
theorem issueExtErrors : Obligations.IssueExtErrors := by
  intro addr cmdId p1 p2 x1 x2 s e err1 err2 he herr1 herr2
  subst he herr1 herr2
  refine ⟨fun hinvalid => ?_, fun n hvalid hn => ?_, fun n hvalid hnone hn => ?_⟩
  · exact issueExt_of_invalid addr cmdId p1 p2 x1 x2 s hinvalid
  · obtain ⟨c, h1, rfl⟩ := (validateArg_ofFields _ _ _ p1 x1).2 n hn
    exact issueExt_of_slot1_error addr cmdId p1 p2 x1 x2 s c hvalid h1
  · obtain ⟨r1, h1⟩ := (validateArg_ofFields _ _ _ p1 x1).1 hnone
    obtain ⟨c, h2, rfl⟩ := (validateArg_ofFields _ _ _ p2 x2).2 n hn
    exact issueExt_of_slot2_error addr cmdId p1 p2 x1 x2 s r1 c hvalid h1 h2

/-- Check (e) of R88 on a configuration that is not refused: what is listed as GotoZeroPan is the source's entry. -/
theorem read_gotoZeroPan_of_wf (c : Config) (id : Byte) (hwf : c.wf = true) (hmem : (.gotoZeroPan, id) ∈ c.names) :
    Memory.read c.cat id.toNat = gotoZeroPanWord := by
  simp only [Config.wf, Bool.and_eq_true, List.all_eq_true] at hwf
  obtain ⟨⟨⟨-, hnames⟩, -⟩, -⟩ := hwf
  simpa [namedWf] using hnames _ hmem

/-- Settles O43: both slots of the source's entry are fixed, so its frame needs no arguments. -/
theorem gotoZeroPanFrame : Obligations.GotoZeroPanFrame := by
  intro s addr id x1 x2 hwf hmem
  have hread := read_gotoZeroPan_of_wf s.cfg id hwf hmem
  refine ⟨hread, ?_⟩
  rw [issueExtEmitsFrame addr id 0x00 22 false false x1 x2 s gotoZeroPanWord hread.symm rfl
    (validateArg_fixed_absent _ x1) (validateArg_fixed_absent _ x2)]
  rfl

end Sys2Proof.Machine
end

section
/-! The scan/camera matrix, speed resolution and the outcomes of BUILD_STD and READ_SESSION (R180-R200), and the
obligations of the standard commands. -/

namespace Sys2Proof.Machine

/-- Settles O45: the table is the definition of `matrix`, entry by entry. -/
theorem scanCameraMatrix : Obligations.ScanCameraMatrix := ⟨rfl, rfl, rfl, rfl, rfl, rfl, rfl, rfl, rfl⟩

/-- The two illegal pairs, seen from the request's codes (R81, R183). -/
theorem matrix_eq_none_iff (m : Intent) (mo : Motion) (h : readIntent m = .ok mo) :
    matrix mo.scan mo.cam = none ↔ (m.scan = .second ∧ m.cam = .first) ∨ (m.scan = .first ∧ m.cam = .second) := by
  obtain ⟨-, -, -, -, -, hscan, hcam⟩ := readIntent_ok m mo h
  rcases readTri_ok _ _ _ _ _ hscan with ⟨hs, hs'⟩ | ⟨hs, hs'⟩ | ⟨hs, hs'⟩ <;>
    rcases readTri_ok _ _ _ _ _ hcam with ⟨hc, hc'⟩ | ⟨hc, hc'⟩ | ⟨hc, hc'⟩ <;>
      simp [hs, hs', hc, hc', matrix]

/-- A speed is legal and has low byte `b` exactly when it is the number `b` and that is legal (R188). -/
theorem speedOk_and_lowByte_iff (u : Arg) (b : Byte) :
    speedOk u = true ∧ u.extractLsb' 0 8 = b ↔ (b.toNat ≤ 0x3F ∨ b.toNat = 0xFF) ∧ u.toNat = b.toNat := by
  rw [speedOk_iff, BitVec.toNat_eq, BitVec.extractLsb'_toNat, Nat.shiftRight_zero]
  omega

/-- Checking the speed an axis uses (R188). -/
theorem checkSpeed_eq_ok_iff (u : Arg) (e : BitVec 4) (b : Byte) :
    (if speedOk u then Except.ok (u.extractLsb' 0 8) else Except.error e) = Except.ok b ↔
      (b.toNat ≤ 0x3F ∨ b.toNat = 0xFF) ∧ u.toNat = b.toNat := by
  rw [← speedOk_and_lowByte_iff]
  cases speedOk u <;> simp

/-- A speed resolves to a byte exactly when that byte is legal and is the given speed or, where none is given, the
sticky one (R186, R188). -/
theorem resolveSpeed_eq_ok_iff (present : Bool) (v : Arg) (sticky : Option Byte) (e1 e2 : BitVec 4) (b : Byte) :
    resolveSpeed present v sticky e1 e2 = .ok b ↔
      (b.toNat ≤ 0x3F ∨ b.toNat = 0xFF) ∧ (present = true → v.toNat = b.toNat) ∧
      (present = false → sticky = some b) := by
  match present, sticky with
  | true, _ => exact (checkSpeed_eq_ok_iff v e2 b).trans (by simp)
  | false, none => simp [resolveSpeed]
  | false, some c =>
    have hc : (c.setWidth 32).toNat = b.toNat ↔ c = b := by
      rw [BitVec.toNat_setWidth_of_le (by decide), BitVec.toNat_eq]
    exact (checkSpeed_eq_ok_iff (c.setWidth 32) e2 b).trans (by rw [hc]; simp)

section
variable (addr : Byte) (m : Intent) (psp tsp : Bool) (ps ts : Arg) (s : State)

theorem buildStd_of_ok (mo : Motion) (x : Bool × BitVec 2) (p q : Byte) (hm : readIntent m = .ok mo)
    (hx : matrix mo.scan mo.cam = some x) (hp : resolveSpeed psp ps s.stickyPan 5 1 = .ok p)
    (hq : resolveSpeed tsp ts s.stickyTilt 6 2 = .ok q) :
    exec (.buildStd addr m psp tsp ps ts) s =
      finish .ok (emitFrame addr (packCmd1 x.1 x.2 mo) (packCmd2 mo) p q) (s.commitSpeeds p q) := by
  simp only [exec, execBuildStd, hm, hx, hp, hq]

theorem buildStd_of_illegalMode (mo : Motion) (hm : readIntent m = .ok mo) (hx : matrix mo.scan mo.cam = none) :
    exec (.buildStd addr m psp tsp ps ts) s = raise .illegalModeCombination 0 s := by
  simp only [exec, execBuildStd, hm, hx]

/-- BUILD_STD raises, or both speeds resolve and it ends with their commit and a frame that carries them. -/
theorem buildStd_raises_or_commits :
    (∃ c info, codeBits c ≠ 0#4 ∧ exec (.buildStd addr m psp tsp ps ts) s = raise c info s) ∨
    (∃ c1 c2 p q, resolveSpeed psp ps s.stickyPan 5 1 = .ok p ∧ resolveSpeed tsp ts s.stickyTilt 6 2 = .ok q ∧
      exec (.buildStd addr m psp tsp ps ts) s = finish .ok (emitFrame addr c1 c2 p q) (s.commitSpeeds p q)) := by
  rcases execBuildStd_cases addr m psp tsp ps ts s with
    ⟨k, -, h⟩ | ⟨-, -, -, h⟩ | ⟨-, -, i, -, -, -, h⟩ | ⟨-, -, -, i, -, -, -, -, h⟩ | ⟨mo, x, p, q, -, -, hp, hq, h⟩
  · exact .inl ⟨.reservedEncoding, k, by decide, h⟩
  · exact .inl ⟨.illegalModeCombination, 0, by decide, h⟩
  · exact .inl ⟨.invalidSpeed, i, by decide, h⟩
  · exact .inl ⟨.invalidSpeed, i, by decide, h⟩
  · exact .inr ⟨_, _, p, q, hp, hq, h⟩

/-- With a legal intent and a legal pair only the speeds can fail (R191). -/
theorem buildStd_code_of_legalMode (mo : Motion) (x : Bool × BitVec 2) (t : State) (hm : readIntent m = .ok mo)
    (hx : matrix mo.scan mo.cam = some x) (h : exec (.buildStd addr m psp tsp ps ts) s = .next t) :
    t.rsp.code = 7#4 ∨ t.rsp.code = 0#4 := by
  simp only [exec, execBuildStd, hm, hx] at h
  split at h
  · exact .inl (by rw [(raise_next _ _ _ _).mp h]; rfl)
  · split at h
    · exact .inl (by rw [(raise_next _ _ _ _).mp h]; rfl)
    · exact .inr (by rw [(finish_next _ _ _ _).mp h]; rfl)

end

/-- Settles O47: the illegal pairs are those without an entry in the matrix, and no other check raises code 6. -/
theorem illegalModeCombination : Obligations.IllegalModeCombination := by
  intro addr m psp tsp ps ts s t hlegal h
  obtain ⟨mo, hm⟩ := readIntent_of_legal m hlegal
  rw [← matrix_eq_none_iff m mo hm]
  cases hx : matrix mo.scan mo.cam with
  | none =>
    rw [buildStd_of_illegalMode addr m psp tsp ps ts s mo hm hx, raise_next] at h
    subst h
    exact ⟨⟨fun _ => rfl, fun _ => rfl⟩, fun _ => rfl⟩
  | some x =>
    have hcode : t.rsp.code ≠ 6#4 := by
      rcases buildStd_code_of_legalMode addr m psp tsp ps ts s mo x t hm hx h with hc | hc <;> rw [hc] <;> decide
    exact ⟨⟨fun hn => (Option.some_ne_none x hn).elim, fun hc => absurd hc hcode⟩, fun hc => absurd hc hcode⟩

/-- Settles O51: the commit holds the frame's data bytes, and an omitted speed resolves to the register's own value. -/
theorem stickyCommit : Obligations.StickyCommit := by
  intro addr m psp tsp ps ts s t h
  obtain ⟨c, info, hc, he⟩ | ⟨c1, c2, p, q, hp, hq, he⟩ := buildStd_raises_or_commits addr m psp tsp ps ts s
  · rw [he, raise_next] at h
    subst h
    exact ⟨fun h0 => absurd h0 hc, fun _ => ⟨rfl, rfl, rfl⟩⟩
  · rw [he, finish_next] at h
    subst h
    obtain ⟨-, hpGiven, hpSticky⟩ := (resolveSpeed_eq_ok_iff _ _ _ _ _ _).mp hp
    obtain ⟨-, hqGiven, hqSticky⟩ := (resolveSpeed_eq_ok_iff _ _ _ _ _ _).mp hq
    exact ⟨fun _ => ⟨rfl, rfl, fun hg => (hpGiven hg).symm, fun ho => (hpSticky ho).symm,
      fun hg => (hqGiven hg).symm, fun ho => (hqSticky ho).symm⟩, fun h0 => absurd rfl h0⟩

/-- Settles O52: the still intent reads, has a matrix entry and packs to two zero bytes. -/
theorem stopFrame : Obligations.StopFrame := by
  intro addr psp tsp ps ts s p q hpGiven hpSticky hqGiven hqSticky hp hq
  rw [buildStd_of_ok addr _ psp tsp ps ts s Motion.still (false, 0) p q rfl rfl
    ((resolveSpeed_eq_ok_iff _ _ _ _ _ _).mpr ⟨hp, hpGiven, hpSticky⟩)
    ((resolveSpeed_eq_ok_iff _ _ _ _ _ _).mpr ⟨hq, hqGiven, hqSticky⟩), finish_emitFrame]
  rfl

/-- READ_SESSION has one word: any other word of its op has a reserved bit (R79). -/
theorem reservedN_of_ne (w : ReqWord) (hop : opField w = 0x7#4) (hw : w ≠ 0x7#128) : reservedN w = true := by
  refine decide_eq_true fun hhigh => hw ?_
  have hsplit : w.extractLsb' 4 124 ++ opField w = w.extractLsb' 0 128 := extract_glue w 0 4 124 4 rfl
  rw [hhigh, hop, BitVec.extractLsb'_eq_self] at hsplit
  exact hsplit.symm

/-- Settles O53: the response is read from the two registers, and bits 127:4 of the word are reserved. -/
theorem readSessionReads : Obligations.ReadSessionReads := by
  refine ⟨fun s => ⟨_, rfl, Option.isSome_iff_ne_none, fun h => ?_, fun b h => ?_, Option.isSome_iff_ne_none,
    fun h => ?_, fun b h => ?_, rfl⟩, rfl, fun w s hop hw => ?_⟩
  · simp [h]
  · simp [h]
  · simp [h]
  · simp [h]
  · refine runRequest_of_reject w .reservedBit s ?_
    rw [decode_of_readSessionOp w hop, reservedN_of_ne w hop hw]
    rfl

end Sys2Proof.Machine
end

section
/-! The reply decoders: the checksum of a frame and a part number as numbers (R112, R232), what a decode operation with
code OK answers, and the obligations of DECODE_STATUS and DECODE_QUERY. -/

namespace Sys2Proof.Machine

/-- The checksum invariant as an equation of numbers (R10, R90). -/
theorem sum8_eq_iff (bs : List Byte) (b : Byte) : sum8 bs = b ↔ (bs.map BitVec.toNat).sum % 256 = b.toNat := by
  rw [sum8, BitVec.toNat_eq, BitVec.toNat_ofNat]

/-- Two bytes, the high one first, as one number (R232). -/
theorem append_eq_ofNat (hi lo : Byte) : hi ++ lo = BitVec.ofNat 16 (hi.toNat * 256 + lo.toNat) := by
  have hsum : (hi ++ lo).toNat = hi.toNat * 256 + lo.toNat := by
    rw [BitVec.toNat_append, ← Nat.shiftLeft_add_eq_or_of_lt lo.isLt, Nat.shiftLeft_eq]
  rw [← hsum, BitVec.ofNat_toNat, BitVec.setWidth_eq]

/-- Settles O34: the validator's chain, its checksum taken as a number. -/
theorem decodeStatusOutcome : Obligations.DecodeStatusOutcome := by
  intro n rx s
  have hsum : sum8 (bytesFrom rx 1 2) = byteAt rx 3 ↔ (rx.b1.toNat + rx.b2.toNat) % 256 = rx.b3.toNat :=
    sum8_eq_iff _ _
  rw [exec, execDecodeStatus, decodeFrame_eq]
  simp only [ne_eq, Nat.reduceSub, hsum]
  rfl

/-- Settles O35: the variant is looked at first, then the validator's chain decides. -/
theorem decodeQueryOutcome : Obligations.DecodeQueryOutcome := by
  intro n rx s
  by_cases hq : s.cfg.querySupported = false
  · rw [exec, execDecodeQuery, if_pos hq, if_pos hq]
    rfl
  · have hsum : sum8 (bytesFrom rx 1 3) = byteAt rx 4 ↔
        (rx.b1.toNat + rx.b2.toNat + rx.b3.toNat) % 256 = rx.b4.toNat := by
      rw [Nat.add_assoc]
      exact sum8_eq_iff _ _
    rw [exec, execDecodeQuery, if_neg hq, if_neg hq, decodeFrame_eq, append_eq_ofNat]
    simp only [ne_eq, Nat.reduceSub, hsum]
    rfl

/-- A decode operation that ends with OK answers the fields of a valid frame (R112). -/
theorem decodeFrame_rsp_of_ok (len n : Nat) (rx : Bytes7) (fields : Response) (s t : State)
    (h : decodeFrame len n rx fields s = .next t) (hok : t.rsp.code = 0#4) :
    t.rsp = { fields with code := 0, info := 0 } := by
  rw [decodeFrame_eq, Host.Outcome.next.injEq] at h
  subst h
  rw [State.respond_rsp] at hok ⊢
  split_ifs at hok ⊢
  -- the five answers before OK carry another code
  iterate 5 exact absurd hok (by decide)
  rfl

/-- A status reply whose last byte is the sum of address and alarm byte is a valid frame (R222). -/
theorem checkFrame_statusReply (a v : Byte) : checkFrame 4 4 ⟨0xFF, a, v, a + v, 0, 0, 0⟩ = .valid := by
  have hsum : sum8 [a, v] = a + v := by simp [sum8_cons, sum8_nil]
  -- count and sync byte are right by evaluation; only the checksum test is left
  exact if_neg (not_not.mpr hsum)

/-- Settles O36: `d_alarm` of an OK reply is the received alarm byte, and every alarm byte has a valid reply. -/
theorem alarmVectorBits : Obligations.AlarmVectorBits := by
  refine ⟨fun n rx s t h hok k _ _ => ?_, fun v a s => ?_⟩
  · rw [decodeFrame_rsp_of_ok 4 n rx _ s t h hok]
    rfl
  · have hfin : exec (.decodeStatus 4 ⟨0xFF, a, v, a + v, 0, 0, 0⟩) s =
        finish .ok { Response.zero with dAddr := a, dAlarm := v } s := by
      rw [exec, execDecodeStatus, decodeFrame, checkFrame_statusReply]
      rfl
    exact ⟨_, hfin, rfl, rfl⟩

end Sys2Proof.Machine
end

section
/-! An error of a request (R250, R251): of the shapes an operation can leave, only a raise carries a code of 2 or more,
and the transaction ends by consuming its response. -/

namespace Sys2Proof.Machine

theorem RaisesAs.eq_respond {s t : State} (h : RaisesAs s t) :
    t = s.respond { Response.zero with code := t.rsp.code, info := t.rsp.info } := by
  obtain ⟨c, info, -, -, rfl⟩ := h
  rfl

theorem EmitsAs.code_eq_zero {s t : State} (h : EmitsAs s t) : t.rsp.code = 0#4 := by
  obtain ⟨a, c1, c2, d1, d2, rfl⟩ := h
  rfl

theorem CommitsAs.code_eq_zero {s t : State} (h : CommitsAs s t) : t.rsp.code = 0#4 := by
  obtain ⟨a, c1, c2, p, q, -, -, rfl⟩ := h
  rfl

/-- The codes of a decode that does not raise are OK and NoReply (R112). -/
theorem DecodesAs.code_lt_two {s t : State} (h : DecodesAs s t) : t.rsp.code.toNat < 2 := by
  obtain rfl | ⟨a, c1, c2, d1, d2, al, pn, rfl⟩ := h
  · exact Nat.one_lt_two
  · exact Nat.two_pos

/-- An operation raises, or its code is OK or NoReply. -/
theorem exec_raises_or_code_lt_two (i : Instr) (s t : State) (h : exec i s = .next t) :
    RaisesAs s t ∨ t.rsp.code.toNat < 2 := by
  obtain ⟨t', ht, hshape⟩ := exec_shape i s
  obtain rfl : t' = t := Host.Outcome.next.inj (ht.symm.trans h)
  obtain hraise | ⟨-, hemit⟩ | ⟨-, hcommit⟩ | ⟨-, hdecode⟩ | ⟨-, hread⟩ := hshape
  · exact .inl hraise
  · exact .inr (by rw [hemit.code_eq_zero]; decide)
  · exact .inr (by rw [hcommit.code_eq_zero]; decide)
  · exact .inr hdecode.code_lt_two
  · exact .inr (by rw [hread]; exact Nat.two_pos)

theorem rejectInfo_mem (r : DecodeReject) : rejectInfo r ∈ infosOf (codeBits .reservedEncoding) := by
  cases r <;> decide

/-- The same of a request word, rejected or not (R71). -/
theorem runRequest_raises_or_code_lt_two (w : ReqWord) (s t : State) (h : runRequest w s = .next t) :
    RaisesAs s t ∨ t.rsp.code.toNat < 2 := by
  cases hd : decode w with
  | instr i => exact exec_raises_or_code_lt_two i s t ((runRequest_of_instr w i s hd).symm.trans h)
  | reject r =>
    rw [runRequest_of_reject w r s hd, Host.Outcome.next.injEq] at h
    exact .inl ⟨.reservedEncoding, rejectInfo r, by decide, rejectInfo_mem r, h.symm⟩

/-- A transaction ends in the state of its operation, with the response consumed (R29). -/
theorem transact_of_next (w : ReqWord) (s t : State) (h : runRequest w s = .next t) :
    transact w s = .next { t with phase := .idle, reqIndex := s.reqIndex + 1, accepted := s.accepted + 1 } := by
  rw [transact, h]

/-- Settles O26: a code of 2 or more comes from a raise, which changes the response and the phase alone. -/
theorem errorWritesOnlyCodeAndInfo : Obligations.ErrorWritesOnlyCodeAndInfo := by
  intro w s t h hcode
  have hraise : RaisesAs s t := (runRequest_raises_or_code_lt_two w s t h).resolve_right (by omega)
  refine ⟨hraise.eq_respond, ?_⟩
  rw [transact_of_next w s t h, hraise.eq_respond]
  rfl

end Sys2Proof.Machine
end

section
/-! Reset (R31, R280-R283): the step on a reset edge, the step before the first reset, and that the configuration
outlives every step. -/

namespace Sys2Proof.Machine

/-- A reset edge in a configuration that is not refused (R280, R281). -/
theorem step_of_rst (s : State) (hc : s.cfg.wf = true) (hr : s.pins.rst = true) : step s = .next s.tick.applyReset := by
  rw [step, if_pos hc, risingEdge, if_pos hr]

/-- Without a reset, and none so far, the edge is a fault (R283). -/
theorem step_of_noResetYet (s : State) (hc : s.cfg.wf = true) (hs : s.resetSeen = false) (hr : s.pins.rst = false) :
    step s = .fault .noStepBeforeFirstReset := by
  rw [step, if_pos hc, risingEdge, if_neg (Bool.eq_false_iff.mp hr), if_pos ((State.tick_resetSeen s).trans hs)]

/-- Settles O14: the step is `applyReset`, and `req_ready` is masked by the pin itself. -/
theorem resetEdge : Obligations.ResetEdge := by
  intro s hc
  refine ⟨fun hr => ⟨_, step_of_rst s hc hr, rfl, rfl, rfl, rfl, rfl, rfl⟩, ?_⟩
  simp [State.reqReady]

/-- Settles O16: the fault with `rst` = 0, and the reset edge otherwise. -/
theorem noStepBeforeFirstReset : Obligations.NoStepBeforeFirstReset := fun s hc hs =>
  ⟨step_of_noResetYet s hc hs, fun hr => ⟨_, step_of_rst s hc hr, rfl, rfl⟩⟩

/-- Of the state a request writes the response, the sticky registers and the phase alone: from equal states
`runRequest_of_agree` gives equal results. -/
theorem runRequest_eq_takeFrom (w : ReqWord) (s t : State) (h : runRequest w s = .next t) : t = s.takeFrom t := by
  obtain ⟨u, hu, hu'⟩ := runRequest_of_agree w s s rfl rfl rfl
  obtain rfl : u = t := Host.Outcome.next.inj (hu.symm.trans h)
  exact Host.Outcome.next.inj (hu.symm.trans hu')

theorem runRequest_cfg (w : ReqWord) (s t : State) (h : runRequest w s = .next t) : t.cfg = s.cfg := by
  rw [runRequest_eq_takeFrom w s t h, State.takeFrom]

/-- Every kind of rising edge leaves the configuration as it was (R282). -/
theorem risingEdge_cfg (p : Pins) (s t : State) (h : risingEdge p s = .next t) : t.cfg = s.cfg := by
  obtain ⟨-, rfl⟩ | ⟨-, -, hedge⟩ := risingEdge_cases p s t h
  · exact State.applyReset_cfg s
  · obtain ⟨-, -, rfl⟩ | ⟨-, -, rfl⟩ | ⟨w, left, -, -, hrun⟩ | ⟨w, left, -, -, rfl⟩ | ⟨-, -, rfl⟩ | ⟨-, -, rfl⟩ := hedge
    · exact State.accept_cfg s p.reqWord
    · rfl
    · exact runRequest_cfg w s t hrun
    · exact State.wait_cfg s w (left - 1)
    · exact State.consume_cfg s
    · rfl

/-- Settles O22: a step is a rising edge, and the catalog is part of the configuration. -/
theorem stepKeepsConfiguration : Obligations.StepKeepsConfiguration := by
  intro s t h
  obtain ⟨-, hedge⟩ := step_next s t h
  have hcfg : t.cfg = s.cfg := (risingEdge_cfg s.pins s.tick t hedge).trans (State.tick_cfg s)
  exact ⟨hcfg, fun id => by rw [hcfg]⟩

end Sys2Proof.Machine
end

section
/-! The codec of request words: an instruction's request word is the one word with its op, no reserved bit and its
fields (R70-R81), so that both round trips read off the same equivalences. -/

namespace Sys2Proof

/-- A field that holds an append holds the high part above the low part. -/
theorem extract_eq_append_iff {N n m : Nat} (w : BitVec N) (lo : Nat) (x : BitVec n) (y : BitVec m) :
    w.extractLsb' lo (n + m) = x ++ y ↔ w.extractLsb' (lo + m) n = x ∧ w.extractLsb' lo m = y := by
  constructor
  · intro h
    have hglue : w.extractLsb' (lo + m) n ++ w.extractLsb' lo m = x ++ y := (extract_glue w lo _ n m rfl).trans h
    constructor
    · simpa [extract_append_high] using congrArg (BitVec.extractLsb' m n) hglue
    · simpa [extract_append_low] using congrArg (BitVec.extractLsb' 0 m) hglue
  · rintro ⟨rfl, rfl⟩
    exact (extract_glue w lo _ n m rfl).symm

/-- A whole word, split in a high and a low part. -/
theorem append_eq_word_iff {n m : Nat} (x : BitVec n) (y : BitVec m) (w : BitVec (n + m)) :
    x ++ y = w ↔ w.extractLsb' m n = x ∧ w.extractLsb' 0 m = y := by
  rw [eq_comm, ← BitVec.extractLsb'_eq_self (x := w), extract_eq_append_iff]
  simp

/-- Format R (R74). -/
theorem encode_encode_eq_iff (addr cmd1 cmd2 data1 data2 : Byte) (w : ReqWord) :
    encode (.encode addr cmd1 cmd2 data1 data2) = w ↔
      opField w = 0x1#4 ∧ reservedR w = false ∧ w.extractLsb' 8 8 = addr ∧ w.extractLsb' 16 8 = cmd1 ∧
      w.extractLsb' 24 8 = cmd2 ∧ w.extractLsb' 32 8 = data1 ∧ w.extractLsb' 40 8 = data2 := by
  refine (append_eq_word_iff (0#80 ++ data2 ++ data1 ++ cmd2 ++ cmd1 ++ addr ++ 0#4) 0x1#4 w).trans ?_
  simp only [extract_eq_append_iff, opField, reservedR, Bool.or_eq_false_iff, decide_eq_false_iff_not, ne_eq,
    not_not]
  tauto

/-- Format X (R75). -/
theorem encode_issueExt_eq_iff (addr cmdId : Byte) (a1p a2p : Bool) (arg1 arg2 : Arg) (w : ReqWord) :
    encode (.issueExt addr cmdId a1p a2p arg1 arg2) = w ↔
      opField w = 0x2#4 ∧ reservedX w = false ∧ w.extractLsb' 8 8 = addr ∧ w.extractLsb' 16 8 = cmdId ∧
      w.getLsbD 24 = a1p ∧ w.getLsbD 25 = a2p ∧ w.extractLsb' 32 32 = arg1 ∧ w.extractLsb' 64 32 = arg2 := by
  refine (append_eq_word_iff (0#32 ++ arg2 ++ arg1 ++ 0#6 ++ BitVec.ofBool a2p ++ BitVec.ofBool a1p ++ cmdId ++ addr
    ++ 0#4) 0x2#4 w).trans ?_
  simp only [extract_eq_append_iff, ← ofBool_getLsbD, BitVec.ofBool_eq_iff_eq, opField, reservedX, Bool.or_eq_false_iff,
    decide_eq_false_iff_not, ne_eq, not_not]
  tauto

theorem eq_triBits_iff (t : Tri) (b : BitVec 2) : b = triBits t ↔ triOfBits b = t :=
  ⟨fun h => h ▸ triOfBits_triBits t, fun h => h ▸ (triBits_triOfBits b).symm⟩

/-- The intent field is bits 29:16 of the word (R81). -/
theorem extract_eq_intentBits_iff (w : ReqWord) (m : Intent) :
    w.extractLsb' 16 14 = intentBits m ↔ intentOf w = m := by
  obtain ⟨pan, tilt, iris, focus, zoom, scan, cam⟩ := m
  refine (extract_eq_append_iff w 16 (triBits cam ++ triBits scan ++ triBits zoom ++ triBits focus ++ triBits iris
    ++ triBits tilt) (triBits pan)).trans ?_
  simp only [extract_eq_append_iff, eq_triBits_iff, intentOf, Intent.mk.injEq]
  tauto

/-- Format S (R77). -/
theorem encode_buildStd_eq_iff (addr : Byte) (m : Intent) (psp tsp : Bool) (ps ts : Arg) (w : ReqWord) :
    encode (.buildStd addr m psp tsp ps ts) = w ↔
      opField w = 0x3#4 ∧ reservedS w = false ∧ w.extractLsb' 8 8 = addr ∧ intentOf w = m ∧
      w.getLsbD 30 = psp ∧ w.getLsbD 31 = tsp ∧ w.extractLsb' 32 32 = ps ∧ w.extractLsb' 64 32 = ts := by
  refine (append_eq_word_iff (0#32 ++ ts ++ ps ++ BitVec.ofBool tsp ++ BitVec.ofBool psp ++ intentBits m ++ addr
    ++ 0#4) 0x3#4 w).trans ?_
  simp only [extract_eq_append_iff, ← ofBool_getLsbD, BitVec.ofBool_eq_iff_eq, opField, reservedS, Bool.or_eq_false_iff,
    decide_eq_false_iff_not, ne_eq, not_not]
  simp only [Nat.reduceAdd, extract_eq_intentBits_iff]
  tauto

/-- The byte count fills its three bits exactly up to 7 (R78). -/
theorem countOf_eq_iff (w : ReqWord) (n : Nat) : countOf w = n ↔ n ≤ 7 ∧ w.extractLsb' 4 3 = BitVec.ofNat 3 n := by
  have hlt : countOf w < 8 := BitVec.isLt _
  rw [BitVec.toNat_eq, BitVec.toNat_ofNat, ← countOf]
  omega

/-- Format D (R78). -/
theorem encodeD_eq_iff (op : BitVec 4) (n : Nat) (rx : Bytes7) (w : ReqWord) :
    n ≤ 7 ∧ encodeD op n rx = w ↔ opField w = op ∧ reservedD w = false ∧ countOf w = n ∧ rxOf w = rx := by
  obtain ⟨b0, b1, b2, b3, b4, b5, b6⟩ := rx
  refine (and_congr_right' (append_eq_word_iff (0#64 ++ b6 ++ b5 ++ b4 ++ b3 ++ b2 ++ b1 ++ b0 ++ 0#1
    ++ BitVec.ofNat 3 n) op w)).trans ?_
  simp only [extract_eq_append_iff, opField, reservedD, countOf_eq_iff, rxOf, Bytes7.mk.injEq, Bool.or_eq_false_iff,
    decide_eq_false_iff_not, ne_eq, not_not]
  tauto

/-- Format N (R79). -/
theorem encode_readSession_eq_iff (w : ReqWord) :
    encode .readSession = w ↔ opField w = 0x7#4 ∧ reservedN w = false := by
  refine (append_eq_word_iff 0#124 0x7#4 w).trans ?_
  simp [opField, reservedN, and_comm]

theorem unlessReserved_eq_instr_iff (bad : Bool) (i j : Instr) :
    unlessReserved bad j = .instr i ↔ bad = false ∧ j = i := by
  cases bad <;> simp [unlessReserved]

/-- Settles O1: the request word has the fields of its format, and `decode` reads just those. -/
theorem decodeOfEncode : Obligations.DecodeOfEncode := by
  intro i hwf
  generalize hw : encode i = w
  cases i with
  | encode addr cmd1 cmd2 data1 data2 =>
    obtain ⟨hop, hres, haddr, hc1, hc2, hd1, hd2⟩ := (encode_encode_eq_iff addr cmd1 cmd2 data1 data2 w).mp hw
    rw [decode_of_encodeOp w hop, hres, haddr, hc1, hc2, hd1, hd2]
    rfl
  | issueExt addr cmdId a1p a2p arg1 arg2 =>
    obtain ⟨hop, hres, haddr, hid, hp1, hp2, hx1, hx2⟩ :=
      (encode_issueExt_eq_iff addr cmdId a1p a2p arg1 arg2 w).mp hw
    rw [decode_of_issueExtOp w hop, hres, haddr, hid, hp1, hp2, hx1, hx2]
    rfl
  | buildStd addr m psp tsp ps ts =>
    obtain ⟨hop, hres, haddr, hm, hp1, hp2, hx1, hx2⟩ := (encode_buildStd_eq_iff addr m psp tsp ps ts w).mp hw
    rw [decode_of_buildStdOp w hop, hres, haddr, hm, hp1, hp2, hx1, hx2]
    rfl
  | decodeCmd n rx =>
    obtain ⟨hop, hres, hn, hrx⟩ := (encodeD_eq_iff 0x4#4 n rx w).mp ⟨of_decide_eq_true hwf, hw⟩
    rw [decode_of_decodeCmdOp w hop, hres, hn, hrx]
    rfl
  | decodeStatus n rx =>
    obtain ⟨hop, hres, hn, hrx⟩ := (encodeD_eq_iff 0x5#4 n rx w).mp ⟨of_decide_eq_true hwf, hw⟩
    rw [decode_of_decodeStatusOp w hop, hres, hn, hrx]
    rfl
  | decodeQuery n rx =>
    obtain ⟨hop, hres, hn, hrx⟩ := (encodeD_eq_iff 0x6#4 n rx w).mp ⟨of_decide_eq_true hwf, hw⟩
    rw [decode_of_decodeQueryOp w hop, hres, hn, hrx]
    rfl
  | readSession =>
    obtain ⟨hop, hres⟩ := (encode_readSession_eq_iff w).mp hw
    rw [decode_of_readSessionOp w hop, hres]
    rfl

/-- A format D word without a reserved bit is the request word of the count and the bytes it reads as. -/
theorem encodeD_of_fields (op : BitVec 4) (w : ReqWord) (hop : opField w = op) (hres : reservedD w = false) :
    decide (countOf w ≤ 7) = true ∧ encodeD op (countOf w) (rxOf w) = w := by
  obtain ⟨hn, he⟩ := (encodeD_eq_iff op (countOf w) (rxOf w) w).mpr ⟨hop, hres, rfl, rfl⟩
  exact ⟨decide_eq_true hn, he⟩

/-- Settles O2: of each op's word only the reserved bits are not read, and those are 0 in a word that reads as an
instruction. -/
theorem encodeOfDecode : Obligations.EncodeOfDecode := by
  intro w i h
  rcases opField_cases w with hop | hop | hop | hop | hop | hop | hop | hop
  · exact Decoded.noConfusion ((decode_of_reservedOp w hop).symm.trans h)
  · rw [decode_of_encodeOp w hop, unlessReserved_eq_instr_iff] at h
    obtain ⟨hres, rfl⟩ := h
    exact ⟨rfl, (encode_encode_eq_iff _ _ _ _ _ w).mpr ⟨hop, hres, rfl, rfl, rfl, rfl, rfl⟩⟩
  · rw [decode_of_issueExtOp w hop, unlessReserved_eq_instr_iff] at h
    obtain ⟨hres, rfl⟩ := h
    exact ⟨rfl, (encode_issueExt_eq_iff _ _ _ _ _ _ w).mpr ⟨hop, hres, rfl, rfl, rfl, rfl, rfl, rfl⟩⟩
  · rw [decode_of_buildStdOp w hop, unlessReserved_eq_instr_iff] at h
    obtain ⟨hres, rfl⟩ := h
    exact ⟨rfl, (encode_buildStd_eq_iff _ _ _ _ _ _ w).mpr ⟨hop, hres, rfl, rfl, rfl, rfl, rfl, rfl⟩⟩
  · rw [decode_of_decodeCmdOp w hop, unlessReserved_eq_instr_iff] at h
    obtain ⟨hres, rfl⟩ := h
    exact encodeD_of_fields 0x4#4 w hop hres
  · rw [decode_of_decodeStatusOp w hop, unlessReserved_eq_instr_iff] at h
    obtain ⟨hres, rfl⟩ := h
    exact encodeD_of_fields 0x5#4 w hop hres
  · rw [decode_of_decodeQueryOp w hop, unlessReserved_eq_instr_iff] at h
    obtain ⟨hres, rfl⟩ := h
    exact encodeD_of_fields 0x6#4 w hop hres
  · rw [decode_of_readSessionOp w hop, unlessReserved_eq_instr_iff] at h
    obtain ⟨hres, rfl⟩ := h
    exact ⟨rfl, (encode_readSession_eq_iff w).mpr ⟨hop, hres⟩⟩

/-- Settles O3: fixed words, evaluated. -/
theorem vectorWordsDecode : Obligations.VectorWordsDecode := by
  refine ⟨?_, ?_, ?_, ?_, ?_, ?_, ?_, ?_, ?_⟩ <;> decide

end Sys2Proof
end

section
/-! The shapes a request leaves (R71, R250, R251), and what holds of every one of them: the response, the frame of the
state, the codes and the emitted frame. -/

namespace Sys2Proof.Machine

open Sys2Proof.Laws.OpFieldIs

/-- A word that reads as an instruction has that instruction's op value (R70). -/
theorem opField_of_decode (w : ReqWord) (i : Instr) (h : decode w = .instr i) : opField w = opValue i := by
  rw [← (encodeOfDecode w i h).2]
  cases i with
  | encode addr cmd1 cmd2 data1 data2 => exact Laws.OpFieldIs.encode addr cmd1 cmd2 data1 data2
  | issueExt addr cmdId a1p a2p arg1 arg2 => exact issueExt addr cmdId a1p a2p arg1 arg2
  | buildStd addr m psp tsp ps ts => exact buildStd addr m psp tsp ps ts
  | decodeCmd n rx => exact decodeCmd n rx
  | decodeStatus n rx => exact decodeStatus n rx
  | decodeQuery n rx => exact decodeQuery n rx
  | readSession => exact readSession

/-- The two sticky registers and their valid bits, and nothing else (R200). -/
def ReadsSessionAs (s t : State) : Prop :=
  t = s.respond { Response.zero with
    sPanV := s.stickyPan.isSome, sPan := s.stickyPan.getD 0, sTiltV := s.stickyTilt.isSome,
    sTilt := s.stickyTilt.getD 0 }

/-- What a request of op value `op` leaves of `s`. -/
def Completes (op : BitVec 4) (s t : State) : Prop :=
  RaisesAs s t ∨ ((op = 1 ∨ op = 2) ∧ EmitsAs s t) ∨ (op = 3 ∧ CommitsAs s t) ∨
    ((op = 4 ∨ op = 5 ∨ op = 6) ∧ DecodesAs s t) ∨ (op = 7 ∧ ReadsSessionAs s t)

theorem exec_completes (i : Instr) (s t : State) (h : exec i s = .next t) : Completes (opValue i) s t := by
  obtain ⟨t', ht, hshape⟩ := exec_shape i s
  obtain rfl : t' = t := Host.Outcome.next.inj (ht.symm.trans h)
  exact hshape

theorem raise_rejectInfo_raisesAs (r : DecodeReject) (s : State) :
    ∃ t, raise .reservedEncoding (rejectInfo r) s = .next t ∧ RaisesAs s t :=
  ⟨_, rfl, .reservedEncoding, rejectInfo r, by decide, rejectInfo_mem r, rfl⟩

/-- Every request answers, rejected or not (R71, R262). -/
theorem runRequest_answers (w : ReqWord) (s : State) :
    ∃ t, runRequest w s = .next t ∧ Completes (opField w) s t := by
  cases hd : decode w with
  | instr i =>
    obtain ⟨t, ht, -⟩ := exec_shape i s
    rw [runRequest_of_instr w i s hd, opField_of_decode w i hd]
    exact ⟨t, ht, exec_completes i s t ht⟩
  | reject r =>
    obtain ⟨t, ht, hr⟩ := raise_rejectInfo_raisesAs r s
    rw [runRequest, hd]
    exact ⟨t, ht, .inl hr⟩

theorem runRequest_completes (w : ReqWord) (s t : State) (h : runRequest w s = .next t) :
    Completes (opField w) s t := by
  obtain ⟨t', ht, hc⟩ := runRequest_answers w s
  obtain rfl : t' = t := Host.Outcome.next.inj (ht.symm.trans h)
  exact hc

/-- Without a commit the state gets a response and nothing else. -/
theorem Completes.commits_or_responds {op : BitVec 4} {s t : State} (h : Completes op s t) :
    (op = 3 ∧ CommitsAs s t) ∨ ∃ r, t = s.respond r := by
  obtain ⟨c, info, -, -, ht⟩ | ⟨-, a, c1, c2, d1, d2, ht⟩ | hcommit | ⟨-, ht | ⟨a, c1, c2, d1, d2, al, pn, ht⟩⟩ |
    ⟨-, ht⟩ := h
  · exact .inr ⟨_, ht⟩
  · exact .inr ⟨_, ht⟩
  · exact .inl hcommit
  · exact .inr ⟨_, ht⟩
  · exact .inr ⟨_, ht⟩
  · exact .inr ⟨_, ht⟩

/-- The response is presented, and only it and the sticky registers are written (R24, R55). -/
theorem Completes.frame {op : BitVec 4} {s t : State} (h : Completes op s t) :
    t = { s with rsp := t.rsp, stickyPan := t.stickyPan, stickyTilt := t.stickyTilt, phase := .responding } := by
  obtain ⟨-, a, c1, c2, p, q, -, -, rfl⟩ | ⟨r, rfl⟩ := h.commits_or_responds
  · rfl
  · rfl

theorem Completes.rspValid {op : BitVec 4} {s t : State} (h : Completes op s t) : t.rspValid = true :=
  State.rspValid_responding t (by rw [h.frame])

theorem Completes.sticky_of_ne {op : BitVec 4} {s t : State} (h : Completes op s t) (hop : op ≠ 3) :
    t.stickyPan = s.stickyPan ∧ t.stickyTilt = s.stickyTilt := by
  obtain ⟨h3, -⟩ | ⟨r, rfl⟩ := h.commits_or_responds
  · exact absurd h3 hop
  · exact ⟨rfl, rfl⟩

theorem eq_buildStd_of_opValue (i : Instr) (h : opValue i = 3) :
    ∃ addr m psp tsp ps ts, i = .buildStd addr m psp tsp ps ts := by
  cases i with
  | buildStd addr m psp tsp ps ts => exact ⟨addr, m, psp, tsp, ps, ts, rfl⟩
  | encode | issueExt | decodeCmd | decodeStatus | decodeQuery | readSession => exact absurd h (of_decide_eq_false rfl)

/-- Settles O25: every word completes in one of the five shapes. -/
theorem everyRequestResponds : Obligations.EveryRequestResponds := by
  intro w s
  obtain ⟨t, ht, hc⟩ := runRequest_answers w s
  exact ⟨t, ht, hc.rspValid⟩

/-- Settles O23: the shapes write the response, and only a commit writes the sticky registers. -/
theorem operationFrame : Obligations.OperationFrame := by
  intro i s t h
  have hc := exec_completes i s t h
  have hf := hc.frame
  refine ⟨by rw [hf], fun id => by rw [hf], by rw [hf], by rw [hf], by rw [hf], by rw [hf], by rw [hf], fun hne => ?_⟩
  refine hc.sticky_of_ne fun h3 => ?_
  obtain ⟨addr, m, psp, tsp, ps, ts, rfl⟩ := eq_buildStd_of_opValue i h3
  exact hne addr m psp tsp ps ts rfl

/-- Settles O29: what the operation writes is the same in both states, and the rest is each state's own. -/
theorem operationSeesNoEarlierOutcome : Obligations.OperationSeesNoEarlierOutcome := by
  intro i s u hcfg hpan htilt
  obtain ⟨t, hs, hu⟩ := exec_of_agree i s u hcfg hpan htilt
  have hf := (exec_completes i s t hs).frame
  refine ⟨t.rsp, t.stickyPan, t.stickyTilt, by rw [← hf]; exact hs, ?_⟩
  rw [hu, hf]
  rfl

/-- An operation that leaves the sticky registers as they were does the same when it is repeated. -/
theorem exec_again_of_sticky (i : Instr) (s t : State) (h : exec i s = .next t) (hpan : t.stickyPan = s.stickyPan)
    (htilt : t.stickyTilt = s.stickyTilt) : exec i t = .next t := by
  have hcfg : t.cfg = s.cfg := by rw [(exec_completes i s t h).frame]
  obtain ⟨t', hs, ht⟩ := exec_of_agree i s t hcfg.symm hpan.symm htilt.symm
  obtain rfl : t' = t := Host.Outcome.next.inj (hs.symm.trans h)
  exact ht

/-- Committed speeds resolve to themselves: given ones are given again, omitted ones are now the registers' (R186). -/
theorem buildStd_again_of_commit (addr : Byte) (m : Intent) (psp tsp : Bool) (ps ts : Arg) (s t : State) (mo : Motion)
    (x : Bool × BitVec 2) (p q : Byte) (hm : readIntent m = .ok mo) (hx : matrix mo.scan mo.cam = some x)
    (hp : resolveSpeed psp ps s.stickyPan 5 1 = .ok p) (hq : resolveSpeed tsp ts s.stickyTilt 6 2 = .ok q)
    (h : exec (.buildStd addr m psp tsp ps ts) s = .next t) : exec (.buildStd addr m psp tsp ps ts) t = .next t := by
  rw [buildStd_of_ok addr m psp tsp ps ts s mo x p q hm hx hp hq, finish_next] at h
  subst h
  obtain ⟨hpLegal, hpGiven, -⟩ := (resolveSpeed_eq_ok_iff _ _ _ _ _ _).mp hp
  obtain ⟨hqLegal, hqGiven, -⟩ := (resolveSpeed_eq_ok_iff _ _ _ _ _ _).mp hq
  rw [buildStd_of_ok addr m psp tsp ps ts _ mo x p q hm hx
    ((resolveSpeed_eq_ok_iff _ _ _ _ _ _).mpr ⟨hpLegal, hpGiven, fun _ => rfl⟩)
    ((resolveSpeed_eq_ok_iff _ _ _ _ _ _).mpr ⟨hqLegal, hqGiven, fun _ => rfl⟩)]
  rfl

/-- Settles O30: only a commit changes what an operation reads, and the speeds it commits resolve to themselves. -/
theorem operationsAreIdempotent : Obligations.OperationsAreIdempotent := by
  intro i s t h
  by_cases h3 : opValue i = 3
  · obtain ⟨addr, m, psp, tsp, ps, ts, rfl⟩ := eq_buildStd_of_opValue i h3
    have again_of_raise : ∀ c info, exec (.buildStd addr m psp tsp ps ts) s = raise c info s →
        exec (.buildStd addr m psp tsp ps ts) t = .next t := fun c info hr => by
      have ht := (raise_next c info s t).mp (hr.symm.trans h)
      exact exec_again_of_sticky _ s t h (by rw [ht]; rfl) (by rw [ht]; rfl)
    rcases execBuildStd_cases addr m psp tsp ps ts s with
      ⟨k, -, hr⟩ | ⟨-, -, -, hr⟩ | ⟨-, -, i, -, -, -, hr⟩ | ⟨-, -, -, i, -, -, -, -, hr⟩ |
        ⟨mo, x, p, q, hm, hx, hp, hq, -⟩
    · exact again_of_raise _ _ hr
    · exact again_of_raise _ _ hr
    · exact again_of_raise _ _ hr
    · exact again_of_raise _ _ hr
    · exact buildStd_again_of_commit addr m psp tsp ps ts s t mo x p q hm hx hp hq h
  · obtain ⟨hpan, htilt⟩ := (exec_completes i s t h).sticky_of_ne h3
    exact exec_again_of_sticky i s t h hpan htilt

/-- The info is one that is listed for the code (R252). -/
theorem Completes.info_mem {op : BitVec 4} {s t : State} (h : Completes op s t) : t.rsp.info ∈ infosOf t.rsp.code := by
  obtain ⟨c, info, -, hmem, rfl⟩ | ⟨-, a, c1, c2, d1, d2, rfl⟩ | ⟨-, a, c1, c2, p, q, -, -, rfl⟩ |
    ⟨-, rfl | ⟨a, c1, c2, d1, d2, al, pn, rfl⟩⟩ | ⟨-, rfl⟩ := h
  · exact hmem
  all_goals exact List.mem_singleton_self 0

/-- The listed infos as a table of numbers (R250, R252). -/
theorem codes_and_infos_of_mem (code info : BitVec 4) (h : info ∈ infosOf code) :
    code.toNat ≤ 11 ∧
    (code.toNat ∈ [3, 4, 5] → info.toNat ∈ [1, 2]) ∧
    (code.toNat = 7 → info.toNat ∈ [1, 2, 5, 6]) ∧
    (code.toNat = 8 → info.toNat ∈ [1, 2, 3]) ∧
    (code.toNat = 11 → info.toNat ∈ [0, 1, 2, 3, 4, 5, 6, 7, 15]) ∧
    (code.toNat ∉ [3, 4, 5, 7, 8, 11] → info.toNat = 0) := by
  revert code info
  decide

/-- Settles O27: every shape has a listed info. -/
theorem listedCodesAndInfos : Obligations.ListedCodesAndInfos := fun w s t h =>
  codes_and_infos_of_mem t.rsp.code t.rsp.info (runRequest_completes w s t h).info_mem

/-- A frame has length 7 and comes with OK, and an operation that emits none leaves both fields 0 (R27). -/
theorem Completes.frame_or_none {op : BitVec 4} {s t : State} (h : Completes op s t) :
    (((op = 1 ∨ op = 2 ∨ op = 3) ∧ t.rsp.code = 0#4) ∧ t.rsp.txLen = 7#3) ∨
    (¬((op = 1 ∨ op = 2 ∨ op = 3) ∧ t.rsp.code = 0#4) ∧ t.rsp.txLen = 0#3 ∧ t.rsp.tx = ⟨0, 0, 0, 0, 0, 0, 0⟩) := by
  obtain ⟨c, info, hc, -, rfl⟩ | ⟨hop, a, c1, c2, d1, d2, rfl⟩ | ⟨hop, a, c1, c2, p, q, -, -, rfl⟩ |
    ⟨hop, hdecode⟩ | ⟨hop, rfl⟩ := h
  · refine .inr ⟨fun ⟨_, h0⟩ => ?_, rfl, rfl⟩
    have h0' : codeBits c = 0#4 := h0
    rw [h0'] at hc
    exact absurd hc (by decide)
  · exact .inl ⟨⟨hop.imp_right .inl, rfl⟩, rfl⟩
  · exact .inl ⟨⟨.inr (.inr hop), rfl⟩, rfl⟩
  · refine .inr ⟨fun ⟨h123, _⟩ => ?_, ?_⟩
    · rcases hop with rfl | rfl | rfl <;> exact absurd h123 (by decide)
    · obtain rfl | ⟨a, c1, c2, d1, d2, al, pn, rfl⟩ := hdecode
      · exact ⟨rfl, rfl⟩
      · exact ⟨rfl, rfl⟩
  · refine .inr ⟨fun ⟨h123, _⟩ => ?_, rfl, rfl⟩
    rw [hop] at h123
    exact absurd h123 (by decide)

/-- Settles O28: the two sides of `frame_or_none`. -/
theorem frameEmittedExactlyWhenOk : Obligations.FrameEmittedExactlyWhenOk := by
  intro w s t h
  obtain ⟨hemits, hlen⟩ | ⟨hnot, hlen, htx⟩ := (runRequest_completes w s t h).frame_or_none
  · exact ⟨iff_of_true hlen hemits, fun hne => absurd hlen hne⟩
  · have hne : t.rsp.txLen ≠ 7#3 := by rw [hlen]; decide
    exact ⟨iff_of_false hne hnot, fun _ => ⟨hlen, htx⟩⟩

/-- Settles O24: of the kinds of edge only a completion writes a sticky register, and only if it commits. -/
theorem onlyStandardCommandsWriteSpeeds : Obligations.OnlyStandardCommandsWriteSpeeds := by
  intro s t h hrst hchanged
  obtain ⟨-, hedge⟩ := step_next s t h
  have hkept : ¬(t.stickyPan = s.stickyPan ∧ t.stickyTilt = s.stickyTilt) := by tauto
  obtain ⟨hr, -⟩ | ⟨-, -, hcases⟩ := risingEdge_cases s.pins s.tick t hedge
  · exact absurd (hrst.symm.trans hr) Bool.false_ne_true
  · obtain ⟨-, -, rfl⟩ | ⟨-, -, rfl⟩ | ⟨w, left, hphase, -, hrun⟩ | ⟨w, left, -, -, rfl⟩ | ⟨-, -, rfl⟩ | ⟨-, -, rfl⟩ :=
      hcases
    · exact absurd ⟨rfl, rfl⟩ hkept
    · exact absurd ⟨rfl, rfl⟩ hkept
    · have hc := runRequest_completes w s.tick t hrun
      obtain ⟨hop, hcommit⟩ | ⟨r, rfl⟩ := hc.commits_or_responds
      · exact ⟨w, left, hphase, hop, hc.rspValid, hcommit.code_eq_zero⟩
      · exact absurd ⟨rfl, rfl⟩ hkept
    · exact absurd ⟨rfl, rfl⟩ hkept
    · exact absurd ⟨rfl, rfl⟩ hkept
    · exact absurd ⟨rfl, rfl⟩ hkept

end Sys2Proof.Machine
end

section
/-! The invariant of the machine (R24, R27, R28, R250, R252): every shape a request leaves meets it, and so does every
kind of rising edge. -/

namespace Sys2Proof.Machine

theorem responseOk_zero : responseOk Response.zero = true := by decide

/-- A response of an error: a listed info and nothing else (R251). -/
theorem responseOk_raise (code info : BitVec 4) (h : info ∈ infosOf code) :
    responseOk { Response.zero with code := code, info := info } = true := by
  simp [responseOk, Response.zero, h]

theorem responseOk_emitFrame (a c1 c2 d1 d2 : Byte) : responseOk (emitFrame a c1 c2 d1 d2) = true := by
  simp [responseOk, emitFrame, Response.zero, frameOk, infosOf]

/-- The fields of a decoded frame, no frame emitted (R113). -/
theorem responseOk_decoded (a c1 c2 d1 d2 al : Byte) (pn : BitVec 16) :
    responseOk { Response.zero with
      dAddr := a, dCmd1 := c1, dCmd2 := c2, dData1 := d1, dData2 := d2, dAlarm := al, dPart := pn } = true := by
  simp [responseOk, Response.zero, infosOf]

/-- READ_SESSION shows a legal speed, or 0 with the valid bit 0 (R200). -/
theorem stickyLegal_eq_shown (x : Option Byte) :
    stickyLegal x = (if x.isSome then legalSpeed (x.getD 0) else decide (x.getD 0 = 0#8)) := by
  cases x with
  | none => rfl
  | some b => rfl

theorem responseOk_session (pan tilt : Option Byte) (hp : stickyLegal pan = true) (ht : stickyLegal tilt = true) :
    responseOk { Response.zero with
      sPanV := pan.isSome, sPan := pan.getD 0, sTiltV := tilt.isSome, sTilt := tilt.getD 0 } = true := by
  rw [stickyLegal_eq_shown] at hp ht
  simp only [responseOk, hp, ht, Bool.and_true]
  rfl

/-- Whatever a request completes with, it leaves legal sticky speeds and a sound response. -/
theorem Completes.inv {op : BitVec 4} {s t : State} (h : Completes op s t) (hs : Inv s) : Inv t := by
  obtain ⟨hcfg, hpan, htilt, -, -⟩ := hs
  obtain ⟨c, info, -, hmem, rfl⟩ | ⟨-, a, c1, c2, d1, d2, rfl⟩ | ⟨-, a, c1, c2, p, q, hp, hq, rfl⟩ |
    ⟨-, rfl | ⟨a, c1, c2, d1, d2, al, pn, rfl⟩⟩ | ⟨-, rfl⟩ := h
  · exact ⟨hcfg, hpan, htilt, responseOk_raise _ _ hmem, rfl⟩
  · exact ⟨hcfg, hpan, htilt, responseOk_emitFrame a c1 c2 d1 d2, rfl⟩
  · exact ⟨hcfg, hp, hq, responseOk_emitFrame a c1 c2 p q, rfl⟩
  · exact ⟨hcfg, hpan, htilt, responseOk_raise 1 0 (by decide), rfl⟩
  · exact ⟨hcfg, hpan, htilt, responseOk_decoded a c1 c2 d1 d2 al pn, rfl⟩
  · exact ⟨hcfg, hpan, htilt, responseOk_session s.stickyPan s.stickyTilt hpan htilt, rfl⟩

/-- R31 is part of what makes a configuration one that is not refused. -/
theorem stickyReset_legal_of_wf (c : Config) (h : c.wf = true) :
    stickyLegal c.stickyResetPan = true ∧ stickyLegal c.stickyResetTilt = true := by
  simp only [Config.wf, Bool.and_eq_true] at h
  obtain ⟨⟨-, hp⟩, ht⟩ := h
  exact ⟨hp, ht⟩

/-- A reset edge gives the values of R31, whatever the state was. -/
theorem applyReset_inv (s : State) (h : s.cfg.wf = true) : Inv s.applyReset := by
  obtain ⟨hp, ht⟩ := stickyReset_legal_of_wf s.cfg h
  exact ⟨h, hp, ht, responseOk_zero, rfl⟩

theorem risingEdge_inv (p : Pins) (s t : State) (hs : Inv s) (h : risingEdge p s = .next t) : Inv t := by
  have hinv := hs
  obtain ⟨hcfg, hpan, htilt, hrsp, -⟩ := hs
  obtain ⟨-, rfl⟩ | ⟨-, -, hedge⟩ := risingEdge_cases p s t h
  · exact applyReset_inv s hcfg
  · obtain ⟨-, -, rfl⟩ | ⟨-, -, rfl⟩ | ⟨w, left, -, -, hrun⟩ | ⟨w, left, -, hleft, rfl⟩ | ⟨-, -, rfl⟩ | ⟨-, -, rfl⟩ :=
      hedge
    · exact ⟨hcfg, hpan, htilt, hrsp, by simp [phaseOk, Config.latency]⟩
    · exact hinv
    · exact (runRequest_completes w s t hrun).inv hinv
    · exact ⟨hcfg, hpan, htilt, hrsp, by simp [phaseOk]; omega⟩
    · exact ⟨hcfg, hpan, htilt, hrsp, rfl⟩
    · exact hinv

/-- Settles O20: a step is a rising edge on the state whose schedule has moved on, of which `Inv` does not speak. -/
theorem stepKeepsInvariant : Obligations.StepKeepsInvariant := fun s t hs h =>
  risingEdge_inv s.pins s.tick t hs (step_next s t h).2

/-- Settles O21: a reset edge needs nothing of the state but its configuration. -/
theorem resetMeetsInvariant : Obligations.ResetMeetsInvariant :=
  ⟨fun s hc hr => ⟨_, step_of_rst s hc hr, applyReset_inv s.tick hc⟩,
    Bool.and_eq_true_iff.mp Config.default_bootReady |>.1, rfl, rfl, responseOk_zero, rfl⟩

/-- Settles O15: the fields of `State.reset`. -/
theorem resetState : Obligations.ResetState := ⟨rfl, rfl, rfl, rfl, rfl, rfl, rfl⟩

end Sys2Proof.Machine
end

section
/-! What makes a configuration one that is refused (R31, R88): the checks, read at one word of the ROM. -/

namespace Sys2Proof

open Sys2Proof.Machine

/-- A word of the ROM is listed, or it is the all-zero word, which passes checks (a) to (d). -/
theorem catWordWf_read (m : Memory) (h : m.all (fun p => catWordWf p.2) = true) (id : Nat) :
    catWordWf (Memory.read m id) = true := by
  induction m with
  | nil =>
    rw [Memory.read_nil]
    decide
  | cons p m ih =>
    simp only [List.all_cons, Bool.and_eq_true] at h
    obtain ⟨hp, hm⟩ := h
    rw [Memory.read]
    split
    · exact hp
    · exact ih hm

/-- R88 (a) to (d) on every word of a configuration that is not refused. -/
theorem catWordWf_read_of_wf (c : Config) (h : c.wf = true) (id : Nat) : catWordWf (Memory.read c.cat id) = true := by
  simp only [Config.wf, Bool.and_eq_true] at h
  obtain ⟨⟨⟨⟨-, hcat⟩, -⟩, -⟩, -⟩ := h
  exact catWordWf_read c.cat hcat id

theorem slotWf_iff (k : Bool) (lo hi : Byte) :
    slotWf k lo hi = true ↔ (k = false → hi = 0#8) ∧ (k = true → lo ≤ hi) := by
  cases k <;> simp [slotWf, BitVec.le_def]

/-- Checks (a) to (d) of R88. -/
theorem catWordWf_iff (e : CatWord) : catWordWf e = true ↔
    (e.getLsbD 0 = true ∨ e = 0#64) ∧ e.extractLsb' 3 5 = 0#5 ∧ e.extractLsb' 56 8 = 0#8 ∧
    ((e.getLsbD 1 = false → e.extractLsb' 32 8 = 0#8) ∧
      (e.getLsbD 1 = true → e.extractLsb' 24 8 ≤ e.extractLsb' 32 8)) ∧
    ((e.getLsbD 2 = false → e.extractLsb' 48 8 = 0#8) ∧
      (e.getLsbD 2 = true → e.extractLsb' 40 8 ≤ e.extractLsb' 48 8)) := by
  simp only [catWordWf, Bool.and_eq_true, Bool.or_eq_true, decide_eq_true_eq, and_assoc, slotWf_iff]

theorem step_of_not_wf (s : State) (h : ¬s.cfg.wf = true) : step s = .refused .configurationRefused := by
  rw [step, if_neg h]

/-- Settles O17: each check of R88 holds of every word of a catalog that passes, and each word named here breaks one. -/
theorem badCatalogRefused : Obligations.BadCatalogRefused := by
  intro s id e he h
  refine step_of_not_wf s fun hwf => ?_
  have hword : catWordWf e = true := he ▸ catWordWf_read_of_wf s.cfg hwf id
  obtain ⟨hvalid, hlow, hhigh, ⟨hfixed1, hrange1⟩, ⟨hfixed2, hrange2⟩⟩ := (catWordWf_iff e).mp hword
  obtain ⟨hv, hz⟩ | ⟨k, hk | hk, hbit⟩ | ⟨hk, hne⟩ | ⟨hk, hne⟩ | ⟨hk, hlt⟩ | ⟨hk, hlt⟩ | ⟨b, hmem, rfl, hne⟩ := h
  · exact hvalid.elim (fun hv' => Bool.noConfusion (hv.symm.trans hv')) hz
  · exact (extract_ne_zero_iff e 3 4).mpr ⟨k, hk, hbit⟩ hlow
  · exact (extract_ne_zero_iff e 56 7).mpr ⟨k, hk, hbit⟩ hhigh
  · exact hne (hfixed1 hk)
  · exact hne (hfixed2 hk)
  · exact BitVec.not_lt.mpr (hrange1 hk) hlt
  · exact BitVec.not_lt.mpr (hrange2 hk) hlt
  · exact hne (he.trans (read_gotoZeroPan_of_wf s.cfg b hwf hmem))

theorem stickyLegal_some_iff (b : Byte) : stickyLegal (some b) = true ↔ b.toNat = 0xFF ∨ b.toNat ≤ 0x3F := by
  simp [stickyLegal, legalSpeed, BitVec.toNat_eq]

/-- Settles O18: R31 asks both reset parameters to be legal. -/
theorem badResetSpeedRefused : Obligations.BadResetSpeedRefused := by
  intro s b hb hlo hne
  refine step_of_not_wf s fun hwf => ?_
  obtain ⟨hpan, htilt⟩ := stickyReset_legal_of_wf s.cfg hwf
  have hlegal : stickyLegal (some b) = true := by
    obtain h | h := hb
    · rwa [h] at hpan
    · rwa [h] at htilt
  rw [stickyLegal_some_iff] at hlegal
  omega

/-- An id that is not listed reads as the all-zero word (R160). -/
theorem Memory.read_of_not_listed (m : Memory) (id : Nat) (h : ∀ p ∈ m, p.1 ≠ id) : Memory.read m id = 0#64 := by
  induction m with
  | nil => rfl
  | cons p m ih =>
    rw [Memory.read, if_neg (h p List.mem_cons_self)]
    exact ih fun q hq => h q (List.mem_cons_of_mem p hq)

theorem default_ids_lt : ∀ p ∈ Config.default.cat, p.1 < 37 := by decide

/-- Settles O19: evaluation for what the catalog lists, and nothing is listed from 37 on. -/
theorem referenceCatalogBoots : Obligations.ReferenceCatalogBoots := by
  refine ⟨Config.default_bootReady, Memory.wf_reset, by decide, fun id h _ => ?_⟩
  rw [Memory.read_of_not_listed _ id fun p hp => ((default_ids_lt p hp).trans_le h).ne]
  rfl

end Sys2Proof
end

section
/-! The port protocol edge by edge (R26, R29, R286), and the edges of a request put together (R29, R58). -/

namespace Sys2Proof.Machine

section
variable (s : State) (hready : Ready s) (hrst : s.pins.rst = false)
include hready hrst

theorem step_idle (hphase : s.phase = .idle) :
    step s = .next (if s.pins.reqValid then s.tick.accept s.pins.reqWord else s.tick) := by
  rw [step_of_ready s hready.1 hready.2 hrst, clockEdge, State.tick_phase, hphase]
  cases s.pins.reqValid <;> rfl

/-- The response is due (R29). -/
theorem step_due (w : ReqWord) (left : Nat) (hphase : s.phase = .inFlight w left) (hleft : left ≤ 1) :
    step s = runRequest w s.tick := by
  rw [step_of_ready s hready.1 hready.2 hrst, clockEdge, State.tick_phase, hphase]
  exact if_pos hleft

theorem step_waiting (w : ReqWord) (left : Nat) (hphase : s.phase = .inFlight w left) (hleft : 1 < left) :
    step s = .next (s.tick.wait w (left - 1)) := by
  rw [step_of_ready s hready.1 hready.2 hrst, clockEdge, State.tick_phase, hphase]
  exact if_neg (Nat.not_le.mpr hleft)

theorem step_responding (hphase : s.phase = .responding) :
    step s = .next (if s.pins.rspReady then s.tick.consume else s.tick) := by
  rw [step_of_ready s hready.1 hready.2 hrst, clockEdge, State.tick_phase, hphase]
  cases s.pins.rspReady <;> rfl

end

/-- Settles O10: the accepting edge, with the free latency. -/
theorem acceptingEdge : Obligations.AcceptingEdge := by
  intro s hready hrst hphase
  have hstep := step_idle s hready hrst hphase
  refine ⟨fun hv => ⟨Config.latency s.accepted, Nat.le_add_left 1 _, ?_⟩, fun hv => ?_⟩
  · rw [hstep, hv]
    rfl
  · rw [hstep, hv]
    rfl

/-- Settles O12: the two edges on a presented response. -/
theorem responseHeldThenConsumed : Obligations.ResponseHeldThenConsumed := by
  intro s hready hrst hphase
  have hstep := step_responding s hready hrst hphase
  refine ⟨fun hv => ?_, fun hv => ?_⟩
  · rw [hstep, hv]
    rfl
  · rw [hstep, hv]
    rfl

/-- Settles O13: an edge with two or more to go only counts down. -/
theorem noEffectBeforeResponse : Obligations.NoEffectBeforeResponse := fun s w left hready hrst hphase =>
  step_waiting s hready hrst w (left + 2) hphase (by omega)

/-- The instruction that `decodeTableWord` reads is the one the block reads from the table's word. -/
theorem decode_of_decodeTableWord (nbits w : Nat) (i : Instr) (h : decodeTableWord nbits w = some i) :
    decode (tableWord nbits w) = .instr i := by
  rw [decodeTableWord] at h
  cases hd : decode (tableWord nbits w) with
  | instr j =>
    rw [hd] at h
    rw [Option.some.inj h]
  | reject r =>
    rw [hd] at h
    cases h

/-- Settles O9: an edge on which the response is due runs the decoded instruction; a placed word is due at once. -/
theorem stepRunsDecodedRequest : Obligations.StepRunsDecodedRequest := by
  refine ⟨fun s w i hready hrst hphase hd => ?_, fun s nbits w i hc hd => ?_⟩
  · rw [step_due s hready hrst w 1 hphase le_rfl, runRequest_of_instr w i s.tick hd]
    rfl
  · rw [step_due (s.withFetchWord nbits w) ⟨hc, rfl⟩ rfl (tableWord nbits w) 1 rfl le_rfl,
      runRequest_of_instr _ i _ (decode_of_decodeTableWord nbits w i hd)]
    rfl

/-- A busy block looks at `rst` and `rsp_ready` alone (R286). -/
theorem risingEdge_of_busy (p q : Pins) (s : State) (hbusy : s.busy = true) (hrst : p.rst = q.rst)
    (hready : p.rspReady = q.rspReady) : risingEdge p s = risingEdge q s := by
  unfold risingEdge clockEdge
  rw [hrst, hready]
  cases hphase : s.phase with
  | idle => exact Bool.noConfusion ((State.busy_idle s hphase).symm.trans hbusy)
  | inFlight w left => rfl
  | responding => rfl

/-- Settles O11: the two states differ in the pins of the coming edge alone. -/
theorem busyBlockIgnoresRequests : Obligations.BusyBlockIgnoresRequests := by
  intro s p q rest hbusy hrst hready
  have hedge := risingEdge_of_busy p q { s with inputs := rest } hbusy hrst hready
  simp only [step, State.pins, State.tick, List.headD_cons, List.tail_cons, hedge]

/-- An operation does not read the phase, and overwrites it. -/
theorem runRequest_of_phase (w : ReqWord) (s : State) (ph : Phase) :
    runRequest w { s with phase := ph } = runRequest w s := by
  obtain ⟨t, hs, hu⟩ := runRequest_of_agree w s { s with phase := ph } rfl rfl rfl
  rw [hs, hu, runRequest_eq_takeFrom w s t hs]
  rfl

/-- A schedule without a reset on the next `k + 1` edges; after its end every pin is low. -/
theorem rst_of_take_succ (s : State) (k : Nat) (h : ∀ p ∈ s.inputs.take (k + 1), p.rst = false) :
    s.pins.rst = false ∧ ∀ p ∈ s.tick.inputs.take k, p.rst = false := by
  rw [State.pins, State.tick_inputs]
  cases hin : s.inputs with
  | nil => exact ⟨rfl, fun p hp => by simp at hp⟩
  | cons p ps =>
    rw [hin, List.take_succ_cons] at h
    exact ⟨h p List.mem_cons_self, fun q hq => h q (List.mem_cons_of_mem p hq)⟩

/-- The edges a request in flight still needs are its operation, on the schedule after them (R29). -/
theorem run_inFlight (w : ReqWord) (k : Nat) (s : State) (hready : Ready s) (hphase : s.phase = .inFlight w (k + 1))
    (hrst : ∀ p ∈ s.inputs.take (k + 1), p.rst = false) :
    Sys2Proof.core.run (k + 1) s = runRequest w { s with inputs := s.inputs.drop (k + 1) } := by
  induction k generalizing s with
  | zero =>
    obtain ⟨hnow, -⟩ := rst_of_take_succ s 0 hrst
    obtain ⟨t, ht, -⟩ := runRequest_answers w s.tick
    rw [run_succ 0 s t ((step_due s hready hnow w 1 hphase le_rfl).trans ht), List.drop_one]
    exact ht.symm
  | succ k ih =>
    obtain ⟨hnow, hlater⟩ := rst_of_take_succ s (k + 1) hrst
    have hstep : step s = .next (s.tick.wait w (k + 1)) := step_waiting s hready hnow w (k + 2) hphase (by omega)
    rw [run_succ (k + 1) s _ hstep, ih (s.tick.wait w (k + 1)) hready rfl hlater, State.wait_inputs, State.tick_inputs,
      List.drop_tail]
    exact runRequest_of_phase w { s with inputs := s.inputs.drop (k + 2) } (.inFlight w (k + 1))

/-- Settles O54: the run is the operation itself, and every operation answers. -/
theorem everyAcceptedRequestIsAnswered : Obligations.EveryAcceptedRequestIsAnswered := by
  intro s w left hready hphase hleft hrst
  obtain ⟨k, rfl⟩ := Nat.exists_eq_add_of_le' hleft
  obtain ⟨t, ht, hc⟩ := runRequest_answers w { s with inputs := s.inputs.drop (k + 1) }
  exact ⟨t, (run_inFlight w k s hready hphase hrst).trans ht, hc.rspValid, ht⟩

/-- The edges from acceptance up to the one on which the response is presented (R29). -/
theorem run_accepted (s : State) (p c : Pins) (waits rest : List Pins) (hready : Ready s) (hphase : s.phase = .idle)
    (hinputs : s.inputs = p :: (waits ++ c :: rest)) (hp : p.rst = false) (hv : p.reqValid = true)
    (hlat : waits.length = Config.latency s.accepted) (hwaits : ∀ q ∈ waits, q.rst = false) :
    Sys2Proof.core.run (waits.length + 1) s =
      runRequest p.reqWord { s.tick.accept p.reqWord with inputs := c :: rest } := by
  have hpins : s.pins = p := by rw [State.pins, hinputs]; rfl
  have haccept : step s = .next (s.tick.accept p.reqWord) := by
    rw [step_idle s hready (hpins ▸ hp) hphase, hpins, hv]
    rfl
  have hin : (s.tick.accept p.reqWord).inputs = waits ++ c :: rest := by
    rw [State.accept_inputs, State.tick_inputs, hinputs]
    rfl
  have hlen : waits.length = Config.extraLatency s.accepted + 1 := hlat
  have hrst : ∀ q ∈ (s.tick.accept p.reqWord).inputs.take waits.length, q.rst = false := by
    rw [hin, List.take_left]
    exact hwaits
  rw [hlen] at hrst
  rw [run_succ _ s _ haccept, hlen,
    run_inFlight p.reqWord (Config.extraLatency s.accepted) (s.tick.accept p.reqWord) hready rfl hrst, ← hlen, hin,
    List.drop_left]

/-- Settles O55: an operation reads nothing that the accepting edge wrote, and one edge more consumes the response. -/
theorem edgesRefineTransaction : Obligations.EdgesRefineTransaction := by
  intro s p c waits rest hready hphase hinputs hp hv hlat hwaits hc hcr
  have hrun := run_accepted s p c waits rest hready hphase hinputs hp hv hlat hwaits
  obtain ⟨t, ht, ht'⟩ := runRequest_of_agree p.reqWord { s.tick.accept p.reqWord with inputs := c :: rest }
    { s with inputs := rest } rfl rfl rfl
  have hf := (runRequest_completes p.reqWord _ t ht).frame
  have hpins : t.pins = c := by rw [hf]; rfl
  have hconsume : step t = .next t.tick.consume := by
    rw [step_responding t (by rw [hf]; exact hready) (hpins ▸ hc) (by rw [hf]), hpins, hcr]
    rfl
  rw [run_add _ 1 s t (hrun.trans ht), run_succ 0 t _ hconsume, transact_of_next _ _ _ ht', hf]
  rfl

/-- A transaction answers, moves the request index on by one and keeps the configuration; without a BUILD_STD it keeps
the sticky registers too. -/
theorem transact_answers (w : ReqWord) (s : State) :
    ∃ t, transact w s = .next t ∧ t.reqIndex = s.reqIndex + 1 ∧ t.cfg = s.cfg ∧
      (opField w ≠ 3 → t.stickyPan = s.stickyPan ∧ t.stickyTilt = s.stickyTilt) := by
  obtain ⟨t, ht, hc⟩ := runRequest_answers w s
  exact ⟨_, transact_of_next w s t ht, rfl, runRequest_cfg w s t ht, hc.sticky_of_ne⟩

theorem runProgram_cons (w : ReqWord) (ws : List ReqWord) (s t : State) (h : transact w s = .next t) :
    runProgram (w :: ws) s = (t.rsp :: (runProgram ws t).1, (runProgram ws t).2) := by
  rw [runProgram, h]

/-- Settles O56, by induction on the program. -/
theorem oneResponsePerRequest : Obligations.OneResponsePerRequest := by
  intro ws
  induction ws with
  | nil => exact fun s => ⟨rfl, rfl, rfl⟩
  | cons w ws ih =>
    intro s
    obtain ⟨t, ht, hindex, hcfg, -⟩ := transact_answers w s
    obtain ⟨hlen, hindex', hcfg'⟩ := ih t
    rw [runProgram_cons w ws s t ht, hindex', hcfg', hindex, hcfg]
    refine ⟨congrArg (· + 1) hlen, ?_, rfl⟩
    rw [List.length_cons]
    omega

/-- Two states that agree on what an operation reads still agree on it after the same transaction, with the same
response. -/
theorem transact_of_agree (w : ReqWord) (s u : State) (hcfg : s.cfg = u.cfg) (hpan : s.stickyPan = u.stickyPan)
    (htilt : s.stickyTilt = u.stickyTilt) :
    ∃ t v, transact w s = .next t ∧ transact w u = .next v ∧ t.rsp = v.rsp ∧ t.cfg = v.cfg ∧
      t.stickyPan = v.stickyPan ∧ t.stickyTilt = v.stickyTilt := by
  obtain ⟨t, hs, hu⟩ := runRequest_of_agree w s u hcfg hpan htilt
  have hcfg' : t.cfg = u.cfg := (runRequest_cfg w s t hs).trans hcfg
  exact ⟨_, _, transact_of_next w s t hs, transact_of_next w u _ hu, rfl, hcfg', rfl, rfl⟩

/-- Settles O57, both parts by induction on the program. -/
theorem onlySpeedsPassBetweenRequests : Obligations.OnlySpeedsPassBetweenRequests := by
  refine ⟨fun ws => ?_, fun ws => ?_⟩
  · induction ws with
    | nil => exact fun s _ => ⟨rfl, rfl⟩
    | cons w ws ih =>
      intro s hops
      obtain ⟨t, ht, -, -, hsticky⟩ := transact_answers w s
      obtain ⟨hpan, htilt⟩ := hsticky (hops w List.mem_cons_self)
      rw [runProgram_cons w ws s t ht, ← hpan, ← htilt]
      exact ih t fun v hv => hops v (List.mem_cons_of_mem w hv)
  · induction ws with
    | nil => exact fun s u _ _ _ => rfl
    | cons w ws ih =>
      intro s u hcfg hpan htilt
      obtain ⟨t, v, ht, hv, hrsp, hcfg', hpan', htilt'⟩ := transact_of_agree w s u hcfg hpan htilt
      rw [runProgram_cons w ws s t ht, runProgram_cons w ws u v hv, hrsp, ih t v hcfg' hpan' htilt']

end Sys2Proof.Machine
end

section
/-! What an operation does not look at: the value of an absent argument or speed (R76), and received bytes from the byte
count on (R78). -/

namespace Sys2Proof.Machine

theorem validateArg_congr (spec : ArgSpec) (present : Bool) (x y : Arg) (h : present = true → x = y) :
    validateArg spec present x = validateArg spec present y := by
  cases present with
  | true => rw [h rfl]
  | false => cases spec <;> rfl

theorem resolveSpeed_congr (present : Bool) (x y : Arg) (sticky : Option Byte) (e1 e2 : BitVec 4)
    (h : present = true → x = y) : resolveSpeed present x sticky e1 e2 = resolveSpeed present y sticky e1 e2 := by
  cases present with
  | true => rw [h rfl]
  | false => rfl

/-- Settles O7: the values reach an operation through `validateArg` and `resolveSpeed` alone. -/
theorem absentValuesIgnored : Obligations.AbsentValuesIgnored := by
  intro addr cmdId m p1 p2 x1 x2 y1 y2 s h1 h2
  constructor
  · simp only [exec, execIssueExt, validateArg_congr _ p1 x1 y1 h1, validateArg_congr _ p2 x2 y2 h2]
  · simp only [exec, execBuildStd, resolveSpeed_congr p1 x1 y1 _ _ _ h1, resolveSpeed_congr p2 x2 y2 _ _ _ h2]

/-- The validator on as many bytes as the layout has (R112). -/
theorem checkFrame_self (len : Nat) (rx : Bytes7) (hlen : len ≠ 0) :
    checkFrame len len rx =
      if byteAt rx 0 ≠ 0xFF#8 then .error .framingError 3
      else if sum8 (bytesFrom rx 1 (len - 2)) ≠ byteAt rx (len - 1) then .error .checksumError 0
      else .valid := by
  rw [checkFrame, if_neg hlen, if_neg (lt_irrefl len), if_neg (lt_irrefl len)]

theorem checkFrame_valid_iff (len : Nat) (rx : Bytes7) (hlen : len ≠ 0) :
    checkFrame len len rx = .valid ↔
      byteAt rx 0 = 0xFF#8 ∧ sum8 (bytesFrom rx 1 (len - 2)) = byteAt rx (len - 1) := by
  rw [checkFrame_self len rx hlen]
  split_ifs with hsync hsum
  · exact iff_of_false not_false fun h => hsync h.1
  · exact iff_of_false not_false fun h => hsum h.2
  · exact iff_of_true rfl ⟨not_not.mp hsync, not_not.mp hsum⟩

theorem bytesFrom_congr (rx rx' : Bytes7) (lo n : Nat) (h : ∀ j, lo ≤ j → j < lo + n → byteAt rx j = byteAt rx' j) :
    bytesFrom rx lo n = bytesFrom rx' lo n :=
  List.map_congr_left fun j hj => by
    rw [List.mem_range'_1] at hj
    exact h j hj.1 hj.2

/-- The validator reads a byte only once the count is right, so only bytes below the count (R112). -/
theorem checkFrame_congr (len n : Nat) (rx rx' : Bytes7) (h : n = len → ∀ k, k < len → byteAt rx k = byteAt rx' k) :
    checkFrame len n rx = checkFrame len n rx' := by
  have hcount : n = 0 ∨ n < len ∨ len < n ∨ (n ≠ 0 ∧ n = len) := by omega
  obtain rfl | hlt | hgt | ⟨h0, rfl⟩ := hcount
  · rfl
  · simp only [checkFrame, hlt, if_true]
  · simp only [checkFrame, hgt, if_true]
  · have hbytes := bytesFrom_congr rx rx' 1 (n - 2) fun k _ hk => h rfl k (by omega)
    rw [checkFrame_self n rx h0, checkFrame_self n rx' h0, h rfl 0 (by omega), h rfl (n - 1) (by omega), hbytes]

/-- A decode operation looks at its fields only where the frame is valid, so only with the right count. -/
theorem decodeFrame_congr (len n : Nat) (rx rx' : Bytes7) (fields fields' : Response) (s : State)
    (h : n = len → ∀ k, k < len → byteAt rx k = byteAt rx' k) (hfields : n = len → fields = fields') :
    decodeFrame len n rx fields s = decodeFrame len n rx' fields' s := by
  rw [decodeFrame, decodeFrame, ← checkFrame_congr len n rx rx' h]
  rcases checkFrame_cases len n rx with
    ⟨-, hc⟩ | ⟨-, -, hc⟩ | ⟨-, -, hc⟩ | ⟨-, -, -, hc⟩ | ⟨-, -, -, -, hc⟩ | ⟨-, hn, -, -, -⟩
  · rw [hc]
  · rw [hc]
  · rw [hc]
  · rw [hc]
  · rw [hc]
  · rw [hfields hn]

/-- Settles O8: the three operations are `decodeFrame` of 7, 4 and 5 bytes, and their fields are below those lengths. -/
theorem unreceivedBytesIgnored : Obligations.UnreceivedBytesIgnored := by
  intro n rx rx' s h
  have agree : ∀ len, len ≤ 7 → n = len → ∀ k, k < len → byteAt rx k = byteAt rx' k :=
    fun len hlen hn k hk => h k (hn ▸ hk) (by omega)
  refine ⟨?_, ?_, ?_⟩
  · refine decodeFrame_congr 7 n rx rx' _ _ s (agree 7 (by omega)) fun hn => ?_
    have hb := agree 7 (by omega) hn
    rw [hb 1, hb 2, hb 3, hb 4, hb 5] <;> decide
  · refine decodeFrame_congr 4 n rx rx' _ _ s (agree 4 (by omega)) fun hn => ?_
    have hb := agree 4 (by omega) hn
    rw [hb 1, hb 2] <;> decide
  · rw [exec, exec, execDecodeQuery, execDecodeQuery]
    refine if_congr Iff.rfl rfl (decodeFrame_congr 5 n rx rx' _ _ s (agree 5 (by omega)) fun hn => ?_)
    have hb := agree 5 (by omega) hn
    rw [hb 1, hb 2, hb 3] <;> decide

end Sys2Proof.Machine
end

section
/-! The 7-byte command layout and the checksum: ENCODE, DECODE_CMD and what the validator catches (R110-R116). -/

namespace Sys2Proof.Machine

/-- Settles O32: `emitFrame` with its checksum as a number. -/
theorem encodeEmitsFrame : Obligations.EncodeEmitsFrame := fun a c1 c2 d1 d2 s => finish_emitFrame a c1 c2 d1 d2 s

/-- Settles O33: the validator's chain, its checksum taken as a number; a count above the length has no request. -/
theorem decodeCmdOutcome : Obligations.DecodeCmdOutcome := by
  intro n rx s hn
  have hsum : sum8 (bytesFrom rx 1 5) = byteAt rx 6 ↔
      (rx.b1.toNat + rx.b2.toNat + rx.b3.toNat + rx.b4.toNat + rx.b5.toNat) % 256 = rx.b6.toNat := by
    rw [show bytesFrom rx 1 5 = [rx.b1, rx.b2, rx.b3, rx.b4, rx.b5] from rfl, sum8_five, BitVec.toNat_eq,
      BitVec.toNat_ofNat]
    rfl
  rw [exec, execDecodeCmd, decodeFrame_eq]
  simp only [ne_eq, Nat.reduceSub, hsum, Nat.not_lt.mpr hn, if_false]
  rfl

/-- Settles O38: the checksum of the emitted frame is the sum that DECODE_CMD compares it with. -/
theorem encodeDecodeFrameRoundTrip : Obligations.EncodeDecodeFrameRoundTrip := by
  intro a c1 c2 d1 d2 s t s' h
  rw [encodeEmitsFrame, Host.Outcome.next.injEq] at h
  subst h
  rw [decodeCmdOutcome 7 _ s' le_rfl]
  simp

/-- One byte of a list changed, the sum is another. -/
theorem sum8_bytesFrom_ne (rx rx' : Bytes7) (k n lo : Nat) (hlo : lo ≤ k) (hk : k < lo + n)
    (hne : byteAt rx k ≠ byteAt rx' k) (hother : ∀ j, j < lo + n → j ≠ k → byteAt rx j = byteAt rx' j) :
    sum8 (bytesFrom rx lo n) ≠ sum8 (bytesFrom rx' lo n) := by
  induction n generalizing lo with
  | zero => omega
  | succ n ih =>
    have hcons : ∀ bs : Bytes7, sum8 (bytesFrom bs lo (n + 1)) = byteAt bs lo + sum8 (bytesFrom bs (lo + 1) n) :=
      fun bs => sum8_cons _ _
    rw [hcons, hcons]
    by_cases hhead : k = lo
    · subst hhead
      rw [bytesFrom_congr rx rx' (k + 1) n fun j hj hjn => hother j (by omega) (by omega)]
      exact fun h => hne (BitVec.add_left_inj _ |>.mp h)
    · rw [hother lo (by omega) (Ne.symm hhead)]
      have htail := ih (lo + 1) (by omega) (by omega) fun j hj hjk => hother j (by omega) hjk
      exact fun h => htail (BitVec.add_right_inj _ |>.mp h)

/-- Settles O37: the changed byte is summed and the checksum byte is not, or the other way round. -/
theorem oneChangedByteIsCaught : Obligations.OneChangedByteIsCaught := by
  intro len rx rx' k hlen hvalid hk1 hk hne hother
  have h0 : len ≠ 0 := by omega
  obtain ⟨hsync, hsum⟩ := (checkFrame_valid_iff len rx h0).mp hvalid
  have hsync' : byteAt rx' 0 = 0xFF#8 := (hother 0 (by omega) (by omega)).symm.trans hsync
  have hsum' : sum8 (bytesFrom rx' 1 (len - 2)) ≠ byteAt rx' (len - 1) := by
    by_cases hlast : k = len - 1
    · rw [← bytesFrom_congr rx rx' 1 (len - 2) fun j _ hj => hother j (by omega) (by omega), hsum, ← hlast]
      exact hne
    · rw [← hother (len - 1) (by omega) (Ne.symm hlast), ← hsum]
      exact (sum8_bytesFrom_ne rx rx' k (len - 2) 1 hk1 (by omega) hne fun j hj hjk => hother j (by omega) hjk).symm
  rw [checkFrame_self len rx' h0, if_neg (not_not.mpr hsync'), if_pos hsum']

end Sys2Proof.Machine
end

section
/-! Argument ranges (R145, R150, R163). -/

namespace Sys2Proof.Machine

theorem toNat_setWidth_arg (b : Byte) : (b.setWidth 32).toNat = b.toNat := BitVec.toNat_setWidth_of_le (by decide)

/-- A byte as an argument of a range slot comes back as it is (R145). -/
theorem validateArg_range_byte (lo hi b : Byte) (h : lo.toNat ≤ b.toNat ∧ b.toNat ≤ hi.toNat) :
    validateArg (.range lo hi) true (b.setWidth 32) = .ok b := by
  rw [← toNat_setWidth_arg b] at h
  obtain ⟨r, hr, hval⟩ := validateArg_range_inside lo hi (b.setWidth 32) h
  rw [hr, BitVec.eq_of_toNat_eq (hval.trans (toNat_setWidth_arg b))]

/-- Settles O40: the bounds as numbers, the value below 0 being the greatest of the 32-bit values. -/
theorem rangeBoundaries : Obligations.RangeBoundaries := by
  intro lo hi h
  refine ⟨validateArg_range_byte lo hi lo ⟨le_rfl, h⟩, validateArg_range_byte lo hi hi ⟨h, le_rfl⟩, ?_, ?_⟩
  · exact validateArg_range_outside lo hi _ (by bv_omega)
  · exact validateArg_range_outside lo hi _ (by bv_omega)

/-- The reference catalog's entries with a selector: slot 1 is the fixed byte 0, slot 2 the range 1..8 (R163). -/
theorem selector_entries : ∀ id ∈ [4, 5, 7, 8, 11],
    (CatEntry.ofWord (Memory.read Config.default.cat id)).valid = true ∧
    (CatEntry.ofWord (Memory.read Config.default.cat id)).slot1 = .fixed 0 ∧
    (CatEntry.ofWord (Memory.read Config.default.cat id)).slot2 = .range 1 8 := by decide

/-- Settles O44: slot 1 needs no argument, and slot 2 decides by its bounds. -/
theorem selectorRange : Obligations.SelectorRange := by
  intro s addr id x v hcat hid
  obtain ⟨hvalid, hslot1, hslot2⟩ := selector_entries id.toNat hid
  rw [← hcat] at hvalid hslot1 hslot2
  have h1 : validateArg (entryAt s id).slot1 false x = .ok 0 := by rw [entryAt, hslot1, validateArg_fixed_absent]
  by_cases hin : 1 ≤ v.toNat ∧ v.toNat ≤ 8
  · obtain ⟨r, hr, hval⟩ := validateArg_range_inside 1 8 v hin
    refine ⟨_, issueExt_of_ok addr id false true x v s 0 r hvalid h1 (by rw [entryAt, hslot2, hr]),
      fun _ => ⟨rfl, hval⟩, fun hout => ?_⟩
    omega
  · have h2 : validateArg (entryAt s id).slot2 true v = .error .argumentOutOfRange := by
      rw [entryAt, hslot2, validateArg_range_outside 1 8 v hin]
    exact ⟨_, issueExt_of_slot2_error addr id false true x v s 0 _ hvalid h1 h2, fun hin' => absurd hin' hin,
      fun _ => ⟨rfl, rfl⟩⟩

end Sys2Proof.Machine
end

section
/-! BUILD_STD with a legal intent and a legal pair: the speed checks and the packed frame (R180-R192). -/

namespace Sys2Proof.Machine

/-- Settles O49: `speedOk_iff`, and the same bounds on a sticky byte. -/
theorem speedRange : Obligations.SpeedRange := by
  refine ⟨fun v => (speedOk_iff v).trans or_comm, fun b hb => ?_⟩
  rw [speedOk_iff, toNat_setWidth_arg]
  exact (stickyLegal_some_iff b).mp hb

/-- A request without a reserved code and with a legal pair gets as far as its speeds (R191). -/
theorem legal_intent_reads (m : Intent)
    (hlegal : ∀ f ∈ [m.pan, m.tilt, m.iris, m.focus, m.zoom, m.scan, m.cam], f ≠ .reserved)
    (h1 : ¬(m.scan = .second ∧ m.cam = .first)) (h2 : ¬(m.scan = .first ∧ m.cam = .second)) :
    ∃ mo x, readIntent m = .ok mo ∧ matrix mo.scan mo.cam = some x := by
  obtain ⟨mo, hm⟩ := readIntent_of_legal m hlegal
  have hne : matrix mo.scan mo.cam ≠ none := fun hn => ((matrix_eq_none_iff m mo hm).mp hn).elim h1 h2
  obtain ⟨x, hx⟩ := Option.ne_none_iff_exists'.mp hne
  exact ⟨mo, x, hm, hx⟩

section
variable (addr : Byte) (m : Intent) (psp tsp : Bool) (ps ts : Arg) (s : State) (mo : Motion) (x : Bool × BitVec 2)
  (hm : readIntent m = .ok mo) (hx : matrix mo.scan mo.cam = some x)
include hm hx

theorem buildStd_of_pan_error (e : BitVec 4) (hp : resolveSpeed psp ps s.stickyPan 5 1 = .error e) :
    exec (.buildStd addr m psp tsp ps ts) s = raise .invalidSpeed e s := by
  simp only [exec, execBuildStd, hm, hx, hp]

theorem buildStd_of_tilt_error (p : Byte) (e : BitVec 4) (hp : resolveSpeed psp ps s.stickyPan 5 1 = .ok p)
    (ht : resolveSpeed tsp ts s.stickyTilt 6 2 = .error e) :
    exec (.buildStd addr m psp tsp ps ts) s = raise .invalidSpeed e s := by
  simp only [exec, execBuildStd, hm, hx, hp, ht]

end

theorem speedOk_eq_false (v : Arg) (h1 : 0x3F < v.toNat) (h2 : v.toNat ≠ 0xFF) : speedOk v = false := by
  rw [Bool.eq_false_iff, ne_eq, speedOk_iff]
  omega

/-- Settles O48: each clause is the first check of R191 that fails. -/
theorem speedCheckOrder : Obligations.SpeedCheckOrder := by
  intro addr m psp tsp ps ts s pan tilt hlegal h1 h2 hpan htilt
  obtain ⟨mo, x, hm, hx⟩ := legal_intent_reads m hlegal h1 h2
  obtain ⟨hpanNone, hpanOk, hpanBad⟩ := resolveSpeed_eq psp ps s.stickyPan 5 1 pan hpan
  obtain ⟨htiltNone, -, htiltBad⟩ := resolveSpeed_eq tsp ts s.stickyTilt 6 2 tilt htilt
  refine ⟨fun hnone => ?_, fun p hp hlo hne => ?_, fun p hp hok hnone => ?_, fun p q hp hok hq hlo hne => ?_⟩
  · exact buildStd_of_pan_error addr m psp tsp ps ts s mo x hm hx 5 (hpanNone hnone)
  · exact buildStd_of_pan_error addr m psp tsp ps ts s mo x hm hx 1 (hpanBad p hp (speedOk_eq_false p hlo hne))
  · have hpok := hpanOk p hp ((speedOk_iff p).mpr hok.symm)
    exact buildStd_of_tilt_error addr m psp tsp ps ts s mo x hm hx _ 6 hpok (htiltNone hnone)
  · have hpok := hpanOk p hp ((speedOk_iff p).mpr hok.symm)
    exact buildStd_of_tilt_error addr m psp tsp ps ts s mo x hm hx _ 2 hpok (htiltBad q hq (speedOk_eq_false q hlo hne))

/-- The bits of a byte put together as cmd1 is (R184). -/
theorem cmd1_bits (sense : Bool) (scanCam : BitVec 2) (closing opening near : Bool) (c : Byte)
    (hc : c = BitVec.ofBool sense ++ 0b00#2 ++ scanCam ++ BitVec.ofBool closing ++ BitVec.ofBool opening
      ++ BitVec.ofBool near) :
    c.getLsbD 7 = sense ∧ c.getLsbD 6 = false ∧ c.getLsbD 5 = false ∧ c.getLsbD 4 = scanCam.getLsbD 1 ∧
    c.getLsbD 3 = scanCam.getLsbD 0 ∧ c.getLsbD 2 = closing ∧ c.getLsbD 1 = opening ∧ c.getLsbD 0 = near := by
  subst hc
  revert sense scanCam closing opening near
  decide

/-- The bits of a byte put together as cmd2 is (R185). -/
theorem cmd2_bits (far zoomOut zoomIn down up left right : Bool) (c : Byte)
    (hc : c = BitVec.ofBool far ++ BitVec.ofBool zoomOut ++ BitVec.ofBool zoomIn ++ BitVec.ofBool down
      ++ BitVec.ofBool up ++ BitVec.ofBool left ++ BitVec.ofBool right ++ 0b0#1) :
    c.getLsbD 7 = far ∧ c.getLsbD 6 = zoomOut ∧ c.getLsbD 5 = zoomIn ∧ c.getLsbD 4 = down ∧ c.getLsbD 3 = up ∧
    c.getLsbD 2 = left ∧ c.getLsbD 1 = right ∧ c.getLsbD 0 = false := by
  subst hc
  revert far zoomOut zoomIn down up left right
  decide

/-- The sense bit and the two scan/camera bits of a legal pair (R182). -/
theorem matrix_bits (scan : Option ScanMode) (cam : Option CamState) (x : Bool × BitVec 2)
    (h : matrix scan cam = some x) :
    x.1 = decide (scan = some .auto ∨ cam = some .on) ∧ x.2.getLsbD 1 = decide (scan ≠ none) ∧
      x.2.getLsbD 0 = decide (cam ≠ none) := by
  rcases scan with - | ⟨⟨⟩⟩ <;> rcases cam with - | ⟨⟨⟩⟩ <;> cases h <;> decide

/-- What was read of a field tells its code (R80, R81). -/
theorem readTri_code_iff {α : Type} (k : BitVec 4) (a b : α) (hab : a ≠ b) (t : Tri) (x : Option α)
    (h : readTri k a b t = .ok x) :
    (x = some a ↔ t = .first) ∧ (x = some b ↔ t = .second) ∧ (x = none ↔ t = .none) := by
  obtain ⟨rfl, rfl⟩ | ⟨rfl, rfl⟩ | ⟨rfl, rfl⟩ := readTri_ok k a b t x h <;> simp [hab, hab.symm]

section
variable (m : Intent) (mo : Motion) (hm : readIntent m = .ok mo) (c : Byte)
include hm

/-- Each bit of cmd1 follows its field of the request (R184). -/
theorem packCmd1_bits (x : Bool × BitVec 2) (hx : matrix mo.scan mo.cam = some x) (hc : c = packCmd1 x.1 x.2 mo) :
    c.getLsbD 7 = decide (m.scan = .first ∨ m.cam = .first) ∧ c.getLsbD 6 = false ∧ c.getLsbD 5 = false ∧
    c.getLsbD 4 = decide (m.scan ≠ .none) ∧ c.getLsbD 3 = decide (m.cam ≠ .none) ∧
    c.getLsbD 2 = decide (m.iris = .second) ∧ c.getLsbD 1 = decide (m.iris = .first) ∧
    c.getLsbD 0 = decide (m.focus = .first) := by
  obtain ⟨-, -, hiris, hfocus, -, hscan, hcam⟩ := readIntent_ok m mo hm
  obtain ⟨hopening, hclosing, -⟩ := readTri_code_iff _ _ _ (by decide) _ _ hiris
  obtain ⟨hnear, -, -⟩ := readTri_code_iff _ _ _ (by decide) _ _ hfocus
  obtain ⟨hauto, -, hscanNone⟩ := readTri_code_iff _ _ _ (by decide) _ _ hscan
  obtain ⟨hon, -, hcamNone⟩ := readTri_code_iff _ _ _ (by decide) _ _ hcam
  obtain ⟨hsense, hscanBit, hcamBit⟩ := matrix_bits _ _ x hx
  simpa only [hsense, hscanBit, hcamBit, hauto, hon, ne_eq, hscanNone, hcamNone, hclosing, hopening, hnear]
    using cmd1_bits _ _ _ _ _ c hc

/-- Each bit of cmd2 follows its field of the request (R185). -/
theorem packCmd2_bits (hc : c = packCmd2 mo) :
    c.getLsbD 7 = decide (m.focus = .second) ∧ c.getLsbD 6 = decide (m.zoom = .second) ∧
    c.getLsbD 5 = decide (m.zoom = .first) ∧ c.getLsbD 4 = decide (m.tilt = .second) ∧
    c.getLsbD 3 = decide (m.tilt = .first) ∧ c.getLsbD 2 = decide (m.pan = .first) ∧
    c.getLsbD 1 = decide (m.pan = .second) ∧ c.getLsbD 0 = false := by
  obtain ⟨hpan, htilt, -, hfocus, hzoom, -, -⟩ := readIntent_ok m mo hm
  obtain ⟨hleft, hright, -⟩ := readTri_code_iff _ _ _ (by decide) _ _ hpan
  obtain ⟨hup, hdown, -⟩ := readTri_code_iff _ _ _ (by decide) _ _ htilt
  obtain ⟨-, hfar, -⟩ := readTri_code_iff _ _ _ (by decide) _ _ hfocus
  obtain ⟨hzoomIn, hzoomOut, -⟩ := readTri_code_iff _ _ _ (by decide) _ _ hzoom
  simpa only [hfar, hzoomOut, hzoomIn, hdown, hup, hleft, hright] using cmd2_bits _ _ _ _ _ _ _ c hc

end

/-- Settles O50: BUILD_STD ends with the packed frame, and a motion's values are those of the intent's codes. -/
theorem buildStdEmitsFrame : Obligations.BuildStdEmitsFrame := by
  intro addr m psp tsp ps ts s p q hlegal h1 h2 hpGiven hpSticky hqGiven hqSticky hp hq
  obtain ⟨mo, x, hm, hx⟩ := legal_intent_reads m hlegal h1 h2
  obtain ⟨c7, c6, c5, c4, c3, c2, c1, c0⟩ := packCmd1_bits m mo hm _ x hx rfl
  refine ⟨packCmd1 x.1 x.2 mo, packCmd2 mo, ?_, c7, c6, c5, c4, c3, c2, c1, c0, packCmd2_bits m mo hm _ rfl⟩
  rw [buildStd_of_ok addr m psp tsp ps ts s mo x p q hm hx
    ((resolveSpeed_eq_ok_iff _ _ _ _ _ _).mpr ⟨hp, hpGiven, hpSticky⟩)
    ((resolveSpeed_eq_ok_iff _ _ _ _ _ _).mpr ⟨hq, hqGiven, hqSticky⟩), finish_emitFrame]
  rfl

end Sys2Proof.Machine
end

section
/-! The assembler (R96, R97): what a line assembles to is well-formed, so its request word reads back. -/

namespace Sys2Proof.Machine

/-- A tri-state written for an optional value reads back as that value. -/
theorem readTri_triOf {α : Type} [DecidableEq α] (k : BitVec 4) (a b : α) (hab : ∀ y, y = a ∨ y = b) (x : Option α) :
    readTri k a b (triOf a x) = .ok x := by
  cases x with
  | none => rfl
  | some y =>
    by_cases hy : y = a
    · simp [triOf, readTri, hy]
    · obtain rfl : y = b := (hab y).resolve_left hy
      simp [triOf, readTri, hy]

/-- A motion survives its intent field (R81). -/
theorem readIntent_intentOfMotion (mo : Motion) : readIntent (intentOfMotion mo) = .ok mo := by
  have hpan := readTri_triOf 1 PanDir.left PanDir.right (by rintro (_ | _) <;> simp) mo.pan
  have htilt := readTri_triOf 2 TiltDir.up TiltDir.down (by rintro (_ | _) <;> simp) mo.tilt
  have hiris := readTri_triOf 3 IrisDir.opening IrisDir.closing (by rintro (_ | _) <;> simp) mo.iris
  have hfocus := readTri_triOf 4 FocusDir.near FocusDir.far (by rintro (_ | _) <;> simp) mo.focus
  have hzoom := readTri_triOf 5 ZoomDir.zoomIn ZoomDir.zoomOut (by rintro (_ | _) <;> simp) mo.zoom
  have hscan := readTri_triOf 6 ScanMode.auto ScanMode.manual (by rintro (_ | _) <;> simp) mo.scan
  have hcam := readTri_triOf 7 CamState.on CamState.off (by rintro (_ | _) <;> simp) mo.cam
  simp only [readIntent, intentOfMotion, hpan, htilt, hiris, hfocus, hzoom, hscan, hcam]
  rfl

theorem byteAt_padBytes (bs : List Byte) (k : Nat) (hk : k < 7) : byteAt (padBytes bs) k = bs.getD k 0 := by
  interval_cases k <;> rfl

/-- The received bytes of a format D line are its list (R96). -/
theorem byteAt_padBytes_of_getElem (bs : List Byte) (hlen : bs.length ≤ 7) (k : Nat) (b : Byte) (h : bs[k]? = some b) :
    byteAt (padBytes bs) k = b := by
  obtain ⟨hk, -⟩ := List.getElem?_eq_some_iff.mp h
  rw [byteAt_padBytes bs k (by omega), List.getD_eq_getElem?_getD, h]
  rfl

theorem asmExt_of_id (c : Config) (addr : Byte) (id : ExtId) (k : Byte) (x1 x2 : Option Arg)
    (h : extIdOf c id = some k) :
    assemble c (.ext addr id x1 x2) = some (.issueExt addr k x1.isSome x2.isSome (x1.getD 0) (x2.getD 0)) := by
  rw [assemble, asmExt, h]
  rfl

/-- What assembles is well-formed: only a byte count could fail, and it is bounded before (R78, log 18). -/
theorem assemble_wf (c : Config) (l : Asm) (i : Instr) (h : assemble c l = some i) : i.wf = true := by
  have wf_ext : ∀ {a id x1 x2}, asmExt c a id x1 x2 = some i → i.wf = true := fun h => by
    obtain ⟨k, -, rfl⟩ := Option.map_eq_some_iff.mp h
    rfl
  have wf_bytes : ∀ {n j}, j.wf = decide (n ≤ 7) → (if n ≤ 7 then some j else none) = some i → i.wf = true :=
    fun hj h => by
      obtain ⟨hn, hi⟩ := Option.ite_none_right_eq_some.mp h
      rw [← Option.some.inj hi, hj, decide_eq_true hn]
  cases l with
  | ext | goto | zeropan => exact wf_ext h
  | dcmd | dstat | dquery => exact wf_bytes rfl h
  | move a d v =>
    cases d
    · cases h; rfl
    · cases h; rfl
  | encode | std | rdsess | stop | camon | camoff => cases h; rfl

theorem asksFor_of_assemble (c : Config) (l : Asm) (i : Instr) (h : assemble c l = some i) : asksFor c l i :=
  ⟨encode i, by rw [asmWord, h]; rfl, decodeOfEncode i (assemble_wf c l i h)⟩

/-- Settles O58: every line's request is `assemble`'s, and `asksFor_of_assemble` reads it back from the word. -/
theorem assemblerIsFaithful : Obligations.AssemblerIsFaithful := by
  intro c
  refine ⟨fun a c1 c2 d1 d2 => ?_, fun a id k x1 x2 hid => ?_, fun a op x1 x2 hop => ?_, fun a mo ps ts => ?_,
    fun bs hlen => ?_, fun bs hlen => ?_, ?_, fun a => rfl, fun a d v => rfl, fun a d v => rfl, fun a => rfl,
    fun a => rfl, fun a p => rfl, fun a => rfl, assemble_wf c⟩
  · exact asksFor_of_assemble c _ _ rfl
  · have hk : extIdOf c id = some k := by
      obtain rfl | ⟨op, rfl, hop⟩ := hid
      · rfl
      · exact hop
    exact ⟨x1.getD 0, x2.getD 0, asksFor_of_assemble c _ _ (asmExt_of_id c a id k x1 x2 hk),
      fun v hv => by rw [hv]; rfl, fun v hv => by rw [hv]; rfl⟩
  · rw [asmWord, assemble, asmExt, extIdOf, hop]
    rfl
  · obtain ⟨pan, tilt, iris, focus, zoom, scan, cam⟩ := mo
    refine ⟨intentOfMotion _, ps.getD 0, ts.getD 0, asksFor_of_assemble c _ _ rfl, fun v hv => by rw [hv]; rfl,
      fun v hv => by rw [hv]; rfl, readIntent_intentOfMotion _, ?_, ?_, ?_, ?_, ?_, ?_, ?_⟩
    · rcases pan with - | ⟨⟨⟩⟩ <;> rfl
    · rcases tilt with - | ⟨⟨⟩⟩ <;> rfl
    · rcases iris with - | ⟨⟨⟩⟩ <;> rfl
    · rcases focus with - | ⟨⟨⟩⟩ <;> rfl
    · rcases zoom with - | ⟨⟨⟩⟩ <;> rfl
    · rcases scan with - | ⟨⟨⟩⟩ <;> rfl
    · rcases cam with - | ⟨⟨⟩⟩ <;> rfl
  · refine ⟨padBytes bs, byteAt_padBytes_of_getElem bs hlen, ?_, ?_, ?_⟩
    · exact asksFor_of_assemble c _ _ (if_pos hlen)
    · exact asksFor_of_assemble c _ _ (if_pos hlen)
    · exact asksFor_of_assemble c _ _ (if_pos hlen)
  · have hnot : ¬bs.length ≤ 7 := Nat.not_le.mpr hlen
    refine ⟨?_, ?_, ?_⟩ <;> simp only [asmWord, assemble, hnot, if_false, Option.map_none]
  · exact asksFor_of_assemble c _ _ rfl

end Sys2Proof.Machine
end

section
/-! Boot (R162, R284). -/

namespace Sys2Proof

/-- Settles O59: `holds` gives the valid entry, and ids without repetition give it to one operation only. -/
theorem bootReadyHoldsEveryOperation : Obligations.BootReadyHoldsEveryOperation := by
  intro c hboot op hop
  simp only [Config.bootReady, Config.holdsRequired, Config.distinctIds, Bool.and_eq_true, List.all_eq_true,
    decide_eq_true_eq] at hboot
  obtain ⟨-, hholds, hnodup⟩ := hboot
  have hop' := hholds op hop
  rw [Config.holds] at hop'
  cases hid : c.idOf op with
  | none =>
    rw [hid] at hop'
    exact Bool.noConfusion hop'
  | some id =>
    rw [hid] at hop'
    simp only [Bool.and_eq_true] at hop'
    exact ⟨id, Config.mem_of_idOf c op id hid, hop'.1, fun op' hmem h =>
      List.inj_on_of_nodup_map hnodup hmem hop (h.trans hid.symm)⟩

end Sys2Proof
end
